-- ==== Sys2Proof/Word.lean ====
section
/-! DEFINITION. The words and the named things of the ssdd engine: bytes, command words, segment patterns, the 15 lines
(rule R61), their driver states (R32), buttons, modes (R24), events (R25), interrupt sources (R271), sequencer phases (R44),
and the two plain containers the state is made of: one value per line, and memory as a list of cells. -/

namespace Sys2Proof

/-- A byte, rule R11. -/
abbrev Byte := BitVec 8

/-- A command word, 32 bits with bit 31 the most significant, rule R90. -/
abbrev CmdWord := BitVec 32

/-- The seven segment bits of one cell; a `FONT`, `DIGIT7` or `LABEL_SET` byte has bit 7 zero, rules R30, R31. -/
abbrev Seg := BitVec 7

/-- A display chip index 0..8, rule R7 (`N_CHIPS`). -/
abbrev Chip := Fin 9

/-- The three buttons, named by their events, rule R287. -/
inductive Button where
  | set
  | inc
  | dec
deriving DecidableEq, Repr, Inhabited

/-- The 15 lines of rule R61. -/
inductive Line where
  | ddData
  | ddClk (k : Chip)
  | rtcScl
  | rtcSda
  | btn (b : Button)
deriving DecidableEq, Repr

/-- The driver state of a line: 0, 1 or Z, rule R32. -/
inductive Drive where
  | low
  | high
  | z
deriving DecidableEq, Repr

/-- The UI modes, register MODE, rule R24. -/
inductive Mode where
  | clock
  | setHours
  | setMinutesTens
  | setMinutesOnes
deriving DecidableEq, Repr

/-- The events of the mailbox, register EVT, rule R25. -/
inductive Event where
  | none
  | setPressed
  | incPressed
  | decPressed
  | timeTick
deriving DecidableEq, Repr

/-- The two interrupt sources, rule R271. -/
inductive Source where
  | timer
  | button
deriving DecidableEq, Repr, Inhabited

/-- The sequencer's position, register SEQ_PHASE, rule R44. -/
inductive Phase where
  | boot
  | render
  | wait
  | dispatch
deriving DecidableEq, Repr

/-- One event of the line trace, rule R10: a write `W(L, v)` or a read `R(L, b)`. -/
inductive LineEvent where
  | wrote (l : Line) (v : Drive)
  | sampled (l : Line) (b : Bool)
deriving DecidableEq, Repr

/-- What the environment can do, rules R9c, R46, R272, R273: the periodic timer overflows; something outside the block (a
pressed button, the board, another peer) starts or stops to hold a line low; a register of the RTC chip changes by itself; the RTC
chip starts or stops to answer on its bus (rule R270: absent or silent). -/
inductive EnvEvent where
  | timerOverflow
  | holdLow (l : Line)
  | letGo (l : Line)
  | rtcReg (a v : Byte)
  | rtcAnswers (b : Bool)
deriving DecidableEq, Repr

/-- Nine like things, one per display chip. -/
structure Nine (α : Type) where
  c0 : α
  c1 : α
  c2 : α
  c3 : α
  c4 : α
  c5 : α
  c6 : α
  c7 : α
  c8 : α
deriving DecidableEq, Repr

/-- One value per line of rule R61. -/
structure LineMap (α : Type) where
  ddData : α
  ddClk  : Nine α
  rtcScl : α
  rtcSda : α
  btnSet : α
  btnInc : α
  btnDec : α
deriving DecidableEq, Repr

/-- Bytes by address: strictly rising addresses, and no entry equal to what an unlisted address reads as (0). -/
abbrev Memory := List Host.Cell

/-- One bit per interrupt source: the shape of SRC_EN and of PEND, rules R34, R35. -/
structure PerSource where
  timer  : Bool
  button : Bool
deriving DecidableEq, Repr

/-- A frame-buffer cell (row 0..5, column 0..23), rule R62; column 0 is the leftmost, row 0 the top. -/
structure Cell where
  row : Fin 6
  col : Fin 24
deriving DecidableEq, Repr, Inhabited

end Sys2Proof
end

