-- ==== Sys2Proof/Syntax.lean ====
section
/-! DEFINITION. The 29 operations of rule R94, one constructor per row of the opcode table. An operand is held as the bits of
its field (rule R92); which of its values are legal is said once in `WellFormed.lean`, and a meaning refuses the others. -/

namespace Sys2Proof

/-- RTC.BEGIN's direction, field `dir`: 0 write, 1 read, rule R92. -/
inductive Dir where
  | write
  | read
deriving DecidableEq, Repr

/-- The operations of rule R94. -/
inductive Instr where
  | pinSet (line : BitVec 8)
  | pinClr (line : BitVec 8)
  | pinRead (line : BitVec 8)
  | pinTri (line : BitVec 8)
  | ddStart (chip : BitVec 4)
  | ddStop (chip : BitVec 4)
  | ddBit (chip : BitVec 4) (bit : Bool)
  | ddByte (chip : BitVec 4) (byte : Byte)
  | ddFrame (chip : BitVec 4)
  | ddPresent
  | ddAllon
  | rtcStart
  | rtcStop
  | rtcTx (byte : Byte)
  | rtcRx (ack : Bool)
  | rtcBegin (dir : Dir) (reg : Byte)
  | rtcGettime
  | rtcSettime
  | rtcInit
  | fbClear
  | fbBigchar (glyph : BitVec 4) (col : BitVec 5)
  | fbRender
  | seqBoot
  | seqIter
  | seqWait
  | seqDispatch
  | seqSelftest
  | evtPost (event : BitVec 3)
  | evtTake
deriving DecidableEq, Repr

end Sys2Proof
end

