-- ==== Sys2Proof/Machine/Operands.lean ====
section
/-! DEFINITION. Operand assembly (rules R92, R95 to R97): which line, chip or event a field's bits name, the codes of
events and modes, and the linear addresses of the frame buffer and the glyph table (R62, R63). -/

namespace Sys2Proof.Machine

/-- The nine display chips in increasing order, the order of rules R143 and R144. -/
def chips : List Chip := [0, 1, 2, 3, 4, 5, 6, 7, 8]

/-- The three buttons in the order of their line ids, rule R95. -/
def buttons : List Button := [.set, .inc, .dec]

/-- All 15 lines, rule R61. -/
def allLines : List Line :=
  [.ddData] ++ chips.map .ddClk ++ [.rtcScl, .rtcSda] ++ buttons.map .btn

/-- The line a `line` field names, rule R95; every other value is no line. -/
def lineOfId (id : BitVec 8) : Option Line :=
  match id.toNat with
  | 0x00 => some .ddData
  | 0x20 => some .rtcScl
  | 0x21 => some .rtcSda
  | 0x30 => some (.btn .set)
  | 0x31 => some (.btn .inc)
  | 0x32 => some (.btn .dec)
  | n => if h : 0x10 ≤ n ∧ n < 0x19 then some (.ddClk ⟨n - 0x10, by omega⟩) else none

/-- The id of a line, rule R95. -/
def lineId (l : Line) : BitVec 8 :=
  match l with
  | .ddData => 0x00
  | .ddClk k => BitVec.ofNat 8 (0x10 + k.val)
  | .rtcScl => 0x20
  | .rtcSda => 0x21
  | .btn .set => 0x30
  | .btn .inc => 0x31
  | .btn .dec => 0x32

/-- The chip a `chip` field names: 0..8, the rest is refused, rule R92. -/
def chipOf (c : BitVec 4) : Option Chip :=
  if h : c.toNat < 9 then some ⟨c.toNat, h⟩ else none

/-- The event a `event` field names, rule R96; codes 5..7 are refused. -/
def eventOf (e : BitVec 3) : Option Event :=
  match e.toNat with
  | 0 => some .none
  | 1 => some .setPressed
  | 2 => some .incPressed
  | 3 => some .decPressed
  | 4 => some .timeTick
  | _ => none

/-- The code of an event, rule R96. -/
def eventCode (e : Event) : BitVec 3 :=
  match e with
  | .none => 0
  | .setPressed => 1
  | .incPressed => 2
  | .decPressed => 3
  | .timeTick => 4

/-- The code of a mode, rule R97. -/
def modeCode (m : Mode) : BitVec 2 :=
  match m with
  | .clock => 0
  | .setHours => 1
  | .setMinutesTens => 2
  | .setMinutesOnes => 3

/-- Is the glyph index one of 0..9, rule R92. -/
def glyphOk (g : BitVec 4) : Bool := decide (g.toNat ≤ 9)

/-- Is the column offset one of 0..19, rule R92: a 5-column glyph must fit in 24 columns. -/
def colOk (c : BitVec 5) : Bool := decide (c.toNat ≤ 19)

/-- The linear frame-buffer address of row `r`, column `c`, rule R62. -/
def fbAddr (r c : Nat) : Nat := 24 * r + c

/-- The linear frame-buffer address of a cell. -/
def cellAddr (x : Cell) : Nat := fbAddr x.row.val x.col.val

/-- The linear glyph-table address, rule R63. -/
def fontAddr (g r c : Nat) : Nat := 30 * g + 5 * r + c

end Sys2Proof.Machine
end

