-- ==== Sys2Proof/Config.lean ====
section
/-! DEFINITION. What is fixed for one machine and what is left free: the source's constants (rule R7), the open parameters
(rule R8) as one plain structure with the constraints the spec puts on them (R66, R72, R209), and the free values, which are
opaque constants without a body. The types of the chips outside the block stand here because their power-on state is free. -/

namespace Sys2Proof.Config

/-- `HOURS_INIT`, the hours byte RTC.INIT writes, rules R7 and R180. -/
def hoursInit : Byte := 0x52

/-- `SET_LAYOUT`: the cells of the setting screen, rules R8 and R215. -/
structure SetLayout where
  label0 : Cell
  label1 : Cell
  label2 : Cell
  ht : Cell
  ho : Cell
  mt : Cell
  mo : Cell
  ulHours : Cell
  ulTens : Cell
  ulOnes : Cell
deriving DecidableEq, Repr, Inhabited

/-- The open parameters of rule R8: what a board fixes and the source does not print. `cellMap` is `CELL_MAP`, the entry of
chip k and slot j at 16*k + j; `font` is `FONT` at the linear address of rule R63. The types hold what the spec says of the
values: seven segment bits (R30, R31), cells in the grid (R209), a colon width of at most 4 (R209). -/
structure Board where
  cmdAutoInc : Byte
  cmdAddr0 : Byte
  cmdDisplayOn : Byte
  rtcAddrW : Byte
  rtcAddrR : Byte
  regSeconds : Byte
  regMinutes : Byte
  regHours : Byte
  font : List Seg
  digit7 : List Seg
  labelS : Seg
  labelE : Seg
  labelT : Seg
  cellMap : List Cell
  colonWidth : Fin 5
  colonCell0 : Cell
  colonCell1 : Cell
  colonPattern0 : Byte
  colonPattern1 : Byte
  layout : SetLayout
  prio0 : Button
  prio1 : Button
  prio2 : Button
  selfTestBtn : Button
  redrawClear : Bool
deriving DecidableEq, Repr, Inhabited

/-- No element stands twice. -/
def distinct {α : Type} [BEq α] (l : List α) : Bool :=
  match l with
  | [] => true
  | x :: xs => !xs.contains x && distinct xs

/-- One chip's 16 cells: slots 0..7 in one row and slots 8..15 in the other row of one block of two rows and eight columns,
rule R72 (b), (c). -/
def blockOk (cells : List Cell) : Bool :=
  match cells with
  | [] => false
  | x :: _ =>
    let band := x.row.val / 2
    let cols := x.col.val / 8
    let a := cells.take 8
    let b := cells.drop 8
    cells.all (fun y => y.row.val / 2 == band && y.col.val / 8 == cols)
      && a.all (fun y => y.row == x.row) && b.all (fun y => y.row != x.row)

/-- Rule R72: `CELL_MAP` is a bijection from the 144 pairs of chip and slot onto the 144 cells, and each chip owns one block
of the 3 x 3 tiling. -/
def cellMapOk (m : List Cell) : Bool :=
  m.length == 144 && distinct m
    && (List.range 9).all (fun k => blockOk ((m.drop (16 * k)).take 16))

/-- The colon cells lie in the columns 10 .. 9 + COLON_WIDTH reserved for the colon, rule R209. -/
def colonOk (w : Fin 5) (x : Cell) : Bool := decide (10 ≤ x.col.val) && decide (x.col.val ≤ 9 + w.val)

/-- Rule R209: label and digit cells are seven distinct cells, and so are the three underline cells. -/
def layoutOk (l : SetLayout) : Bool :=
  distinct [l.label0, l.label1, l.label2, l.ht, l.ho, l.mt, l.mo] && distinct [l.ulHours, l.ulTens, l.ulOnes]

/-- The constraints the spec puts on the parameters: R66 (consecutive registers), R63 (table sizes), R72, R209, R291 (an order
of the three buttons). -/
def Board.valid (b : Board) : Bool :=
  b.regSeconds.toNat + 1 == b.regMinutes.toNat && b.regSeconds.toNat + 2 == b.regHours.toNat
    && b.font.length == 300 && b.digit7.length == 10 && cellMapOk b.cellMap
    && colonOk b.colonWidth b.colonCell0 && colonOk b.colonWidth b.colonCell1 && b.colonCell0 != b.colonCell1
    && layoutOk b.layout && distinct [b.prio0, b.prio1, b.prio2]

/-- The reference cell of chip k, slot j: `REFCFG` of 92_eei_decisions.md. -/
def refCell (k j : Nat) : Cell := ⟨Fin.ofNat 6 (2 * (k / 3) + j / 8), Fin.ofNat 24 (8 * (k % 3) + j % 8)⟩

/-- The reference parameters `REFCFG` of 92_eei_decisions.md: for tests and as the witness that valid parameters exist. No
claim about the board (rule R8). -/
def refBoard : Board where
  cmdAutoInc := 0x40
  cmdAddr0 := 0xC0
  cmdDisplayOn := 0x8F
  rtcAddrW := 0xD0
  rtcAddrR := 0xD1
  regSeconds := 0x00
  regMinutes := 0x01
  regHours := 0x02
  font := (List.range 300).map fun n => BitVec.ofNat 7 (n % 127 + 1)
  digit7 := [0x3F, 0x06, 0x5B, 0x4F, 0x66, 0x6D, 0x7D, 0x07, 0x7F, 0x6F]
  labelS := 0x6D
  labelE := 0x79
  labelT := 0x78
  cellMap := (List.range 9).flatMap fun k => (List.range 16).map (refCell k)
  colonWidth := 4
  colonCell0 := ⟨1, 11⟩
  colonCell1 := ⟨4, 11⟩
  colonPattern0 := 0x63
  colonPattern1 := 0x5C
  layout :=
    { label0 := ⟨2, 8⟩, label1 := ⟨2, 9⟩, label2 := ⟨2, 10⟩, ht := ⟨2, 12⟩, ho := ⟨2, 13⟩, mt := ⟨2, 14⟩, mo := ⟨2, 15⟩,
      ulHours := ⟨3, 13⟩, ulTens := ⟨3, 14⟩, ulOnes := ⟨3, 15⟩ }
  prio0 := .set
  prio1 := .inc
  prio2 := .dec
  selfTestBtn := .set
  redrawClear := false

/-- Any parameter set at all: a free value. -/
opaque anyBoard : Board

/-- The board's parameters: any set that meets the constraints (log 5). Nothing can be proved of it but `valid`. -/
def board : Board := if anyBoard.valid then anyBoard else refBoard

/-- `DEBOUNCE_DELAY`, an opaque duration no rule reads, rules R8 and R331. -/
opaque debounceDelay : Nat

/-- `TICK_PERIOD`, an opaque duration no rule reads, rules R8 and R331. -/
opaque tickPeriod : Nat

/-- What the environment does at its n-th chance to act once the input script is used up (rule R46): a free value, log 4. -/
opaque freeEvents : Nat → List EnvEvent

/-- Which source is serviced first when both are pending and no choice is scripted (rule R277): a free value, log 6. -/
opaque freeSource : Nat → Source

/-- What SCRATCH.h holds after a snapshot of a combined hour that does not fit its 4 bits (rule R232): a free value, log 12. -/
opaque unfitHour : BitVec 1 → BitVec 4 → BitVec 4

/-- A display chip as far as the spec describes one (rules R65, R77, 95_test_vectors.md §0): its memory, address pointer,
address mode and on/off state, and its serial receiver. `data` and `clk` are the levels it last saw on its two lines; they count only
while the line is released (rule R123). -/
structure DisplayChip where
  mem : Memory
  addr : Nat
  autoInc : Bool
  on : Bool
  inBracket : Bool
  first : Bool
  shift : Byte
  count : Nat
  data : Bool
  clk : Bool
deriving DecidableEq, Repr, Inhabited

/-- Where the RTC chip stands in a transfer (95_test_vectors.md §0). -/
inductive RtcPhase where
  /-- No bracket open. -/
  | idle
  /-- Receiving the address byte after a start. -/
  | address
  /-- Receiving the register pointer. -/
  | pointer
  /-- Receiving data bytes. -/
  | store
  /-- Addressed for a read; the acknowledge of the address byte is not over. -/
  | readAck
  /-- Sending data bytes. -/
  | send
  /-- Not addressed, or the master ended the read: silent until the next start. -/
  | ignore
deriving DecidableEq, Repr, Inhabited

/-- The RTC chip as far as the spec describes one (rules R66, R67, R78, 95_test_vectors.md §0): whether it answers on the bus
(rule R270: absent or silent), its register file, its register pointer, and its serial receiver and transmitter. `low`: it holds
RTC_SDA low when it answers. -/
structure RtcChip where
  answers : Bool
  regs : Memory
  ptr : Byte
  phase : RtcPhase
  shift : Byte
  count : Nat
  low : Bool
deriving DecidableEq, Repr, Inhabited

/-- The state of display chip k at the n-th power-on but for its memory, rules R47 and R314: unspecified, a free value, log 7. -/
opaque displayAtPowerOn : Nat → Chip → DisplayChip

/-- The byte at address a of display chip k's memory at the n-th power-on, rules R47 and R314: a free value, log 7. -/
opaque displayByteAtPowerOn : Nat → Chip → Nat → Byte

/-- The levels that the released display lines go through after the write at a position of the trace and before the next one, rule
R123 ("any value"): a free value, log 15. The first number is the environment's counter, the second the position. -/
opaque floatingLevels : Nat → Nat → List (LineMap Bool)

/-- The RTC chip at the n-th power-on but for its registers, rules R47 and R78: whether it is there to answer, its register pointer
and its place in a transfer are unspecified, a free value, log 8. -/
opaque rtcAtPowerOn : Nat → RtcChip

/-- The byte at address a of the RTC chip's register file when the n-th power-on finds no kept value, rule R47: a free value,
log 8. -/
opaque rtcByteAtPowerOn : Nat → Nat → Byte

end Sys2Proof.Config
end

