-- ==== Sys2Proof/WellFormed.lean ====
section
/-! DEFINITION. Which operations are well formed: the legal operand values of rule R92. -/

namespace Sys2Proof

/-- Every field of the operation holds a value that rule R92 calls legal. -/
def Instr.wf (i : Instr) : Bool :=
  match i with
  | .pinSet line | .pinClr line | .pinRead line | .pinTri line => (Machine.lineOfId line).isSome
  | .ddStart chip | .ddStop chip | .ddFrame chip => (Machine.chipOf chip).isSome
  | .ddBit chip _ => (Machine.chipOf chip).isSome
  | .ddByte chip _ => (Machine.chipOf chip).isSome
  | .fbBigchar glyph col => Machine.glyphOk glyph && Machine.colOk col
  | .evtPost event => (Machine.eventOf event).isSome
  | .rtcTx _ | .rtcRx _ | .rtcBegin _ _ => true
  | .ddPresent | .ddAllon | .rtcStart | .rtcStop | .rtcGettime | .rtcSettime | .rtcInit | .fbClear | .fbRender | .seqBoot
  | .seqIter | .seqWait | .seqDispatch | .seqSelftest | .evtTake => true

/-- Well-formedness as a proposition. -/
abbrev WellFormed (i : Instr) : Prop := i.wf = true

end Sys2Proof
end

