-- ==== Sys2Proof/Decode.lean ====
section
/-! DEFINITION. Decoding a command word (rules R90 to R98), total and rejecting by name; then the encoder, and the opcode
table of rule R94 as data. -/

namespace Sys2Proof

/-- Why a command word is reserved, rule R98 (a), (b), (c). -/
inductive DecodeError where
  /-- The opcode is none of the 29, R98 (a). -/
  | unknownOpcode
  /-- A bit the format does not name is 1, R98 (b). -/
  | reservedBits
  /-- A field holds a value rule R92 calls refused, R98 (c). -/
  | operandRange
deriving DecidableEq, Repr

/-- The opcode field CW[31:24], rule R90. -/
def opcodeField (w : CmdWord) : BitVec 8 := w.extractLsb' 24 8

/-- Check the bits the format does not name (rule R91, `unused` has a 1 at each) and the operand ranges (rule R92). -/
def checked (unused : CmdWord) (w : CmdWord) (i : Instr) : Except DecodeError Instr :=
  if w &&& unused ≠ 0 then .error .reservedBits
  else if i.wf then .ok i
  else .error .operandRange

/-- Format Z: no field, rule R91. -/
def formatZ (w : CmdWord) (i : Instr) : Except DecodeError Instr := checked 0x00FFFFFF w i

/-- Format L: `line` = CW[7:0]. -/
def formatL (w : CmdWord) (mk : BitVec 8 → Instr) : Except DecodeError Instr :=
  checked 0x00FFFF00 w (mk (w.extractLsb' 0 8))

/-- Format C: `chip` = CW[3:0]. -/
def formatC (w : CmdWord) (mk : BitVec 4 → Instr) : Except DecodeError Instr :=
  checked 0x00FFFFF0 w (mk (w.extractLsb' 0 4))

/-- Format CB: `chip` = CW[3:0], `bit` = CW[8]. -/
def formatCB (w : CmdWord) (mk : BitVec 4 → Bool → Instr) : Except DecodeError Instr :=
  checked 0x00FFFEF0 w (mk (w.extractLsb' 0 4) (w.getLsbD 8))

/-- Format CY: `chip` = CW[3:0], `byte` = CW[15:8]. -/
def formatCY (w : CmdWord) (mk : BitVec 4 → Byte → Instr) : Except DecodeError Instr :=
  checked 0x00FF00F0 w (mk (w.extractLsb' 0 4) (w.extractLsb' 8 8))

/-- Format Y: `byte` = CW[15:8]. -/
def formatY (w : CmdWord) (mk : Byte → Instr) : Except DecodeError Instr :=
  checked 0x00FF00FF w (mk (w.extractLsb' 8 8))

/-- Format A: `ack` = CW[0]. -/
def formatA (w : CmdWord) (mk : Bool → Instr) : Except DecodeError Instr :=
  checked 0x00FFFFFE w (mk (w.getLsbD 0))

/-- Format T: `dir` = CW[0] (1 read), `reg` = CW[15:8]. -/
def formatT (w : CmdWord) (mk : Dir → Byte → Instr) : Except DecodeError Instr :=
  checked 0x00FF00FE w (mk (if w.getLsbD 0 then .read else .write) (w.extractLsb' 8 8))

/-- Format G: `glyph` = CW[3:0], `col` = CW[12:8]. -/
def formatG (w : CmdWord) (mk : BitVec 4 → BitVec 5 → Instr) : Except DecodeError Instr :=
  checked 0x00FFE0F0 w (mk (w.extractLsb' 0 4) (w.extractLsb' 8 5))

/-- Format E: `event` = CW[2:0]. -/
def formatE (w : CmdWord) (mk : BitVec 3 → Instr) : Except DecodeError Instr :=
  checked 0x00FFFFF8 w (mk (w.extractLsb' 0 3))

/-- The decoder, rules R94 and R98: every word is an operation or is rejected by name. -/
def decode (w : CmdWord) : Except DecodeError Instr :=
  match (opcodeField w).toNat with
  | 0x01 => formatL w .pinSet
  | 0x02 => formatL w .pinClr
  | 0x03 => formatL w .pinRead
  | 0x04 => formatL w .pinTri
  | 0x10 => formatC w .ddStart
  | 0x11 => formatC w .ddStop
  | 0x12 => formatCB w .ddBit
  | 0x13 => formatCY w .ddByte
  | 0x14 => formatC w .ddFrame
  | 0x15 => formatZ w .ddPresent
  | 0x16 => formatZ w .ddAllon
  | 0x20 => formatZ w .rtcStart
  | 0x21 => formatZ w .rtcStop
  | 0x22 => formatY w .rtcTx
  | 0x23 => formatA w .rtcRx
  | 0x24 => formatT w .rtcBegin
  | 0x25 => formatZ w .rtcGettime
  | 0x26 => formatZ w .rtcSettime
  | 0x27 => formatZ w .rtcInit
  | 0x30 => formatZ w .fbClear
  | 0x31 => formatG w .fbBigchar
  | 0x32 => formatZ w .fbRender
  | 0x40 => formatZ w .seqBoot
  | 0x41 => formatZ w .seqIter
  | 0x42 => formatZ w .seqWait
  | 0x43 => formatZ w .seqDispatch
  | 0x44 => formatZ w .seqSelftest
  | 0x50 => formatE w .evtPost
  | 0x51 => formatZ w .evtTake
  | _ => .error .unknownOpcode

/-- The opcode of an operation, rule R94. -/
def opcodeOf (i : Instr) : BitVec 8 :=
  match i with
  | .pinSet _ => 0x01
  | .pinClr _ => 0x02
  | .pinRead _ => 0x03
  | .pinTri _ => 0x04
  | .ddStart _ => 0x10
  | .ddStop _ => 0x11
  | .ddBit _ _ => 0x12
  | .ddByte _ _ => 0x13
  | .ddFrame _ => 0x14
  | .ddPresent => 0x15
  | .ddAllon => 0x16
  | .rtcStart => 0x20
  | .rtcStop => 0x21
  | .rtcTx _ => 0x22
  | .rtcRx _ => 0x23
  | .rtcBegin _ _ => 0x24
  | .rtcGettime => 0x25
  | .rtcSettime => 0x26
  | .rtcInit => 0x27
  | .fbClear => 0x30
  | .fbBigchar _ _ => 0x31
  | .fbRender => 0x32
  | .seqBoot => 0x40
  | .seqIter => 0x41
  | .seqWait => 0x42
  | .seqDispatch => 0x43
  | .seqSelftest => 0x44
  | .evtPost _ => 0x50
  | .evtTake => 0x51

/-- The operand area CW[23:0] of an operation, rule R91. -/
def operandArea (i : Instr) : BitVec 24 :=
  match i with
  | .pinSet line | .pinClr line | .pinRead line | .pinTri line => (0 : BitVec 16) ++ line
  | .ddStart chip | .ddStop chip | .ddFrame chip => (0 : BitVec 20) ++ chip
  | .ddBit chip bit => (0 : BitVec 15) ++ BitVec.ofBool bit ++ (0 : BitVec 4) ++ chip
  | .ddByte chip byte => (0 : BitVec 8) ++ byte ++ (0 : BitVec 4) ++ chip
  | .rtcTx byte => (0 : BitVec 8) ++ byte ++ (0 : BitVec 8)
  | .rtcRx ack => (0 : BitVec 23) ++ BitVec.ofBool ack
  | .rtcBegin dir reg => (0 : BitVec 8) ++ reg ++ (0 : BitVec 7) ++ BitVec.ofBool (decide (dir = .read))
  | .fbBigchar glyph col => (0 : BitVec 11) ++ col ++ (0 : BitVec 4) ++ glyph
  | .evtPost event => (0 : BitVec 21) ++ event
  | .ddPresent | .ddAllon | .rtcStart | .rtcStop | .rtcGettime | .rtcSettime | .rtcInit | .fbClear | .fbRender | .seqBoot
  | .seqIter | .seqWait | .seqDispatch | .seqSelftest | .evtTake => 0

/-- The command word of an operation, rules R90, R91, R94. -/
def encode (i : Instr) : CmdWord := opcodeOf i ++ operandArea i

/-- The mask of an operation's row, rule R94: all ones with the format's field bits cleared. -/
def rowMask (i : Instr) : CmdWord :=
  match i with
  | .pinSet _ | .pinClr _ | .pinRead _ | .pinTri _ => 0xFFFFFF00
  | .ddStart _ | .ddStop _ | .ddFrame _ => 0xFFFFFFF0
  | .ddBit _ _ => 0xFFFFFEF0
  | .ddByte _ _ => 0xFFFF00F0
  | .rtcTx _ => 0xFFFF00FF
  | .rtcRx _ => 0xFFFFFFFE
  | .rtcBegin _ _ => 0xFFFF00FE
  | .fbBigchar _ _ => 0xFFFFE0F0
  | .evtPost _ => 0xFFFFFFF8
  | .ddPresent | .ddAllon | .rtcStart | .rtcStop | .rtcGettime | .rtcSettime | .rtcInit | .fbClear | .fbRender | .seqBoot
  | .seqIter | .seqWait | .seqDispatch | .seqSelftest | .evtTake => 0xFFFFFFFF

/-- The match value of an operation's row, rule R94: `OPC << 24`. -/
def rowMatch (i : Instr) : CmdWord := opcodeOf i ++ (0 : BitVec 24)

/-- The operation a command word of `nbits` bits and value `w` holds, the bits above `nbits` being 0. -/
def tableWord (nbits w : Nat) : CmdWord := BitVec.ofNat 32 (w % 2 ^ nbits)

/-- What the decoder reads from a row's bits. -/
def decodeTableWord (nbits w : Nat) : Option Instr :=
  match decode (tableWord nbits w) with
  | .ok i => some i
  | .error _ => none

end Sys2Proof
end

