-- ==== Sys2Proof/Machine/Memory.lean ====
section
/-! DEFINITION. Memory as a canonical list of cells, and reading and writing one value per line. `fb` (rule R62), a display
chip's 16 bytes (R65) and the RTC chip's registers (R66) are held as `Memory`; every access is one byte (R68, R69). -/

namespace Sys2Proof.Machine

/-- The byte at an address; an unlisted address reads 0 (rule R47 for `FB`). -/
def memRead (m : Memory) (a : Nat) : Byte :=
  match m with
  | [] => 0#8
  | (b, w) :: rest => if a = b then w else memRead rest a

/-- Write one byte and keep the canonical form: writing 0 removes the entry. -/
def memWrite (m : Memory) (a : Nat) (v : Byte) : Memory :=
  match m with
  | [] => if v = 0#8 then [] else [(a, v)]
  | (b, w) :: rest =>
    if a < b then (if v = 0#8 then (b, w) :: rest else (a, v) :: (b, w) :: rest)
    else if a = b then (if v = 0#8 then rest else (a, v) :: rest)
    else (b, w) :: memWrite rest a v

/-- The canonical form: addresses strictly rise and no entry is 0, what an unlisted address reads as. -/
def memWf (m : Memory) : Bool :=
  match m with
  | [] => true
  | (a, v) :: rest => v != 0#8 && rest.all (fun c => decide (a < c.1)) && memWf rest

/-- Every entry lies below address `n`. -/
def memBelow (n : Nat) (m : Memory) : Bool := m.all fun c => decide (c.1 < n)

/-- A sequence of byte writes, left to right. -/
def memWriteAll (m : Memory) (ws : List (Nat × Byte)) : Memory := ws.foldl (fun m w => memWrite m w.1 w.2) m

/-- The entry of chip `k`. -/
def nineGet {α : Type} (n : Nine α) (k : Chip) : α :=
  match k with
  | 0 => n.c0
  | 1 => n.c1
  | 2 => n.c2
  | 3 => n.c3
  | 4 => n.c4
  | 5 => n.c5
  | 6 => n.c6
  | 7 => n.c7
  | 8 => n.c8

/-- Replace the entry of chip `k`. -/
def nineSet {α : Type} (n : Nine α) (k : Chip) (x : α) : Nine α :=
  match k with
  | 0 => { n with c0 := x }
  | 1 => { n with c1 := x }
  | 2 => { n with c2 := x }
  | 3 => { n with c3 := x }
  | 4 => { n with c4 := x }
  | 5 => { n with c5 := x }
  | 6 => { n with c6 := x }
  | 7 => { n with c7 := x }
  | 8 => { n with c8 := x }

/-- The nine entries made from their indices. -/
def nineOf {α : Type} (f : Chip → α) : Nine α := ⟨f 0, f 1, f 2, f 3, f 4, f 5, f 6, f 7, f 8⟩

/-- The value of a line. -/
def lineGet {α : Type} (m : LineMap α) (l : Line) : α :=
  match l with
  | .ddData => m.ddData
  | .ddClk k => nineGet m.ddClk k
  | .rtcScl => m.rtcScl
  | .rtcSda => m.rtcSda
  | .btn .set => m.btnSet
  | .btn .inc => m.btnInc
  | .btn .dec => m.btnDec

/-- Replace the value of a line; every other line keeps its own, rule R124. -/
def lineSet {α : Type} (m : LineMap α) (l : Line) (x : α) : LineMap α :=
  match l with
  | .ddData => { m with ddData := x }
  | .ddClk k => { m with ddClk := nineSet m.ddClk k x }
  | .rtcScl => { m with rtcScl := x }
  | .rtcSda => { m with rtcSda := x }
  | .btn .set => { m with btnSet := x }
  | .btn .inc => { m with btnInc := x }
  | .btn .dec => { m with btnDec := x }

/-- The line map made from the lines. -/
def lineOf {α : Type} (f : Line → α) : LineMap α :=
  { ddData := f .ddData, ddClk := nineOf fun k => f (.ddClk k), rtcScl := f .rtcScl, rtcSda := f .rtcSda,
    btnSet := f (.btn .set), btnInc := f (.btn .inc), btnDec := f (.btn .dec) }

/-- The level of a line whose driver state is `d`, when something outside the block does (`held`) or does not hold it low,
rule R14: the driven value, or 1 by the pull-up unless held low. -/
def levelOf (d : Drive) (held : Bool) : Bool :=
  match d with
  | .low => false
  | .high => true
  | .z => !held

/-- The driver state of a line after reset, rule R311. -/
def idleDrive (l : Line) : Drive :=
  match l with
  | .ddData => .high
  | .ddClk _ => .high
  | .rtcScl => .high
  | .rtcSda => .z
  | .btn _ => .z

end Sys2Proof.Machine
end

