-- ==== Sys2Proof/Machine/State.lean ====
section
/-! DEFINITION. The state of the machine (rule R47 lists the block's own part), the faults and refusals, and the state after
reset. -/

namespace Sys2Proof.Machine

/-- TIME, the four digit fields of rule R21. -/
structure TimeOfDay where
  ht : BitVec 1
  ho : BitVec 4
  mt : BitVec 3
  mo : BitVec 4
deriving DecidableEq, Repr

/-- SCRATCH, the edited copy of rule R23: the hour as a plain integer and two minute digits. -/
structure Scratch where
  h : BitVec 4
  mt : BitVec 3
  mo : BitVec 4
deriving DecidableEq, Repr

/-- The environment's side (rules R9c, R46): which lines it holds low, the events and choices that are scripted, and how many
free values have been drawn since the script ran out. -/
structure Env where
  held : LineMap Bool
  script : List (List EnvEvent)
  picks : List Source
  drawn : Nat
deriving DecidableEq, Repr

/-- All the machine's state. -/
structure State where
  /-- TIME, rule R21. -/
  time : TimeOfDay
  /-- SCRATCH, rule R23. -/
  scratch : Scratch
  /-- RES, rule R28. -/
  res : Byte
  /-- REDRAW, rule R26. -/
  redraw : Bool
  /-- RTC_INVALID, rule R27. -/
  rtcInvalid : Bool
  /-- MODE, rule R24. -/
  mode : Mode
  /-- EVT, rule R25. -/
  evt : Event
  /-- IE, rule R33. -/
  ie : Bool
  /-- SRC_EN, rule R34. -/
  srcEn : PerSource
  /-- PEND, rule R35. -/
  pend : PerSource
  /-- IN_HANDLER, rule R36. -/
  inHandler : Bool
  /-- SEQ_PHASE, rule R44. -/
  seqPhase : Phase
  /-- FB, rules R29 and R62. -/
  fb : Memory
  /-- drv[L], rule R32. -/
  drv : LineMap Drive
  /-- FONT, DIGIT7, LABEL_SET (rules R30, R31) and the other open parameters of rule R8; nothing writes them. -/
  board : Config.Board
  /-- The line trace, oldest event first, rule R10: a record that no operation reads. -/
  trace : List LineEvent
  /-- The model's command port: the words presented and not yet executed, log 1. -/
  port : List CmdWord
  /-- The environment's side of the lines and the interrupt sources, log 4. -/
  env : Env
  /-- The RTC chip with RTCREG, rules R60, R66 and log 8. -/
  rtcChip : Config.RtcChip
  /-- The nine display chips, rule R65 and log 7. -/
  displays : Nine Config.DisplayChip
deriving DecidableEq, Repr

/-- Why the machine stops with a fault. The hardware raises no exception (rule R270). -/
inductive Fault where
  /-- SEQ.WAIT, SEQ.ITER and the sequencer's own wait: no source is or can become pending, so the hold never ends (rules
  R241, R332; "stuck"). Safe: the hardware has no next state either. -/
  | waitNeverEnds
deriving DecidableEq, Repr

/-- Why the model gives no meaning (rule R13). Each is safe: the model stops. -/
inductive Refusal where
  /-- An instruction that has no meaning yet. Safe. -/
  | notModelled (mnemonic : String)
  /-- The step: the command word is reserved, rule R98. Safe. -/
  | reservedWord (why : DecodeError)
  /-- Every operation: the context may not execute it, rule R102. Safe. -/
  | wrongContext
  /-- PIN.*: the line id names no line, rules R95 and R120. Safe. -/
  | unknownLine
  /-- PIN.SET, PIN.CLR: a button line is never driven, rule R125. Safe. -/
  | buttonDriven
  /-- DD.*: the chip index is above 8, rule R131. Safe. -/
  | chipOutOfRange
  /-- FB.BIGCHAR: glyph above 9, rule R201. Safe. -/
  | glyphOutOfRange
  /-- FB.BIGCHAR: column above 19, rule R201. Safe. -/
  | columnOutOfRange
  /-- EVT.POST: event code above 4, rule R243. Safe. -/
  | eventOutOfRange
  /-- FB.RENDER, SEQ.ITER: a digit of TIME or SCRATCH above 9 indexes no table entry, rules R62, R63, R201; only in states no
  run reaches (R213, R219). Safe. -/
  | digitOutOfTable
  /-- SEQ.BOOT, SEQ.ITER: not the phase the operation runs in, rules R240 and R245. Safe. -/
  | outOfPhase
deriving DecidableEq, Repr

/-- What a meaning answers. -/
abbrev Answer := Host.Outcome State Fault Refusal

/-- A display chip at the n-th power-on: everything about it is free (rules R47, R314), log 7. -/
def displayAtReset (n : Nat) (k : Chip) : Config.DisplayChip :=
  { Config.displayAtPowerOn n k with
    mem := memWriteAll [] ((List.range 16).map fun a => (a, Config.displayByteAtPowerOn n k a)) }

/-- The RTC chip at the n-th power-on with nothing kept: every register and everything else about it is free (rules R45, R47), log
8. The register file has one byte for each value of the register address byte (rule R92). -/
def rtcAtReset (n : Nat) : Config.RtcChip :=
  { Config.rtcAtPowerOn n with
    regs := memWriteAll [] ((List.range 256).map fun a => (a, Config.rtcByteAtPowerOn n a)) }

/-- The machine right after reset, rules R47, R310, R311, the first power-on. What a later power-on keeps of the RTC chip is said by
`State.powerOn`. -/
def State.reset : State where
  time := { ht := 0, ho := 0, mt := 0, mo := 0 }
  scratch := { h := 0, mt := 0, mo := 0 }
  res := 0
  redraw := false
  rtcInvalid := false
  mode := .clock
  evt := .none
  ie := false
  srcEn := { timer := false, button := false }
  pend := { timer := false, button := false }
  inHandler := false
  seqPhase := .boot
  fb := []
  drv := lineOf idleDrive
  board := Config.board
  trace := []
  port := []
  env := { held := lineOf fun _ => false, script := [], picks := [], drawn := 0 }
  rtcChip := rtcAtReset 0
  displays := nineOf (displayAtReset 0)

end Sys2Proof.Machine
end

