-- ==== Sys2Proof/Machine/Peers.lean ====
section
/-! DEFINITION. The chips outside the block (rules R65 to R67, R77, R78), as the reference peers of 95_test_vectors.md §0: what
a display chip makes of the lines it watches, and what the RTC chip makes of its two lines and when it holds RTC_SDA low.
Both see the block's writes and the environment's events (logs 7, 8 and 15). -/

namespace Sys2Proof.Machine

/-- The level the block and the environment give a line, before any chip of this file acts on it (rule R14). -/
def lineLevel (held : LineMap Bool) (drv : LineMap Drive) (l : Line) : Bool := levelOf (lineGet drv l) (lineGet held l)

/-- Which lines the environment holds low after one event. -/
def heldAfter (held : LineMap Bool) (e : EnvEvent) : LineMap Bool :=
  match e with
  | .holdLow l => lineSet held l true
  | .letGo l => lineSet held l false
  | .timerOverflow | .rtcReg _ _ | .rtcAnswers _ => held

/-! ### Display chips -/

/-- A whole byte has come in: the first of a bracket is a command, every later one is stored at the address, which then moves
on. DESIGN CHOICE (log 7): a command byte that is none of the three named ones is ignored (91_not_in_source.md N3 leaves other
commands open), so nothing clears `autoInc` or `on`; the address moves on whatever `autoInc` is; a byte beyond address 15 is not
stored. -/
def displayByte (b : Config.Board) (d : Config.DisplayChip) (v : Byte) : Config.DisplayChip :=
  if d.first then
    { d with
      first := false
      autoInc := d.autoInc || v == b.cmdAutoInc
      addr := if v = b.cmdAddr0 then 0 else d.addr
      on := d.on || v == b.cmdDisplayOn }
  else { d with mem := if d.addr < 16 then memWrite d.mem d.addr v else d.mem, addr := d.addr + 1 }

/-- One bit comes in, bit 0 of the byte first. -/
def displayBit (b : Config.Board) (d : Config.DisplayChip) (bit : Bool) : Config.DisplayChip :=
  let v := d.shift ||| ((BitVec.ofBool bit).setWidth 8 <<< d.count)
  if d.count = 7 then displayByte b { d with shift := 0, count := 0 } v
  else { d with shift := v, count := d.count + 1 }

/-- The levels of the data line and of the chip's own clock go from `data0`, `clk0` to `data1`, `clk1`: a data edge while the
clock is high opens (fall) or closes (rise) a bracket, a rising clock inside a bracket shifts a bit in. -/
def displayEdge (b : Config.Board) (d : Config.DisplayChip) (data0 clk0 data1 clk1 : Bool) : Config.DisplayChip :=
  if clk0 && clk1 && data0 && !data1 then { d with inBracket := true, first := true, shift := 0, count := 0 }
  else if clk0 && clk1 && !data0 && data1 then { d with inBracket := false, shift := 0, count := 0 }
  else if !clk0 && clk1 && d.inBracket then displayBit b d data1
  else d

/-- The levels of the data line and of chip `k`'s clock: a driven line has its driver's level, a released one the level given in
`floating`, rules R14 and R123. -/
def displayLevels (k : Chip) (drv : LineMap Drive) (floating : Bool × Bool) : Bool × Bool :=
  (levelOf (lineGet drv .ddData) (!floating.1), levelOf (lineGet drv (.ddClk k)) (!floating.2))

/-- The levels that chip `k` sees now. -/
def displaySeen (k : Chip) (drv : LineMap Drive) (d : Config.DisplayChip) : Bool × Bool := displayLevels k drv (d.data, d.clk)

/-- A display chip sees its two lines go from one pair of levels to another, and keeps the last one in mind. -/
def displayGoes (b : Config.Board) (d : Config.DisplayChip) (l0 l1 : Bool × Bool) : Config.DisplayChip :=
  { displayEdge b d l0.1 l0.2 l1.1 l1.2 with data := l1.1, clk := l1.2 }

/-- Display chip `k` at a write that takes the driver states from `drv0` to `drv1`. A line that is released keeps its level at
this instant: a write moves no released line. -/
def displayWrite (b : Config.Board) (k : Chip) (drv0 drv1 : LineMap Drive) (d : Config.DisplayChip) : Config.DisplayChip :=
  displayGoes b d (displaySeen k drv0 d) (displayLevels k drv1 (displaySeen k drv0 d))

/-- Display chip `k` while the released ones of its lines go through the levels of the list. They stay at the last. -/
def displayFloat (b : Config.Board) (k : Chip) (drv : LineMap Drive) (d : Config.DisplayChip) (levels : List (LineMap Bool)) :
    Config.DisplayChip :=
  match levels with
  | [] => d
  | x :: rest =>
    displayFloat b k drv (displayGoes b d (displaySeen k drv d) (displayLevels k drv (lineGet x .ddData, lineGet x (.ddClk k)))) rest

/-- Display chip `k` between one write and the next: if its data or clock line is released it sees any levels on that line, rule
R123 (log 15). -/
def displayFloats (b : Config.Board) (k : Chip) (drv : LineMap Drive) (levels : List (LineMap Bool)) (d : Config.DisplayChip) :
    Config.DisplayChip :=
  if lineGet drv .ddData == .z || lineGet drv (.ddClk k) == .z then displayFloat b k drv d levels else d

/-- Display chip `k` through a sequence of line writes that starts at position `n` of the trace from the driver states `drv`. After
the write at a position the released lines go through the levels that `float` gives for it. -/
def displayRun (b : Config.Board) (float : Nat → List (LineMap Bool)) (n : Nat) (k : Chip) (drv : LineMap Drive)
    (d : Config.DisplayChip) (ws : List (Line × Drive)) : Config.DisplayChip :=
  match ws with
  | [] => d
  | w :: rest =>
    let drv' := lineSet drv w.1 w.2
    displayRun b float (n + 1) k drv' (displayFloats b k drv' (float n) (displayWrite b k drv drv' d)) rest

/-- The level of a released line `l` after an event, `was` before it: only an event that names the line moves it. -/
def levelAfter (e : EnvEvent) (l : Line) (was : Bool) : Bool :=
  match e with
  | .holdLow l' => if l' = l then false else was
  | .letGo l' => if l' = l then true else was
  | .timerOverflow | .rtcReg _ _ | .rtcAnswers _ => was

/-- Display chip `k` through a batch of environment events, each of which may move a released line. -/
def displayThrough (b : Config.Board) (drv : LineMap Drive) (k : Chip) (d : Config.DisplayChip) (es : List EnvEvent) :
    Config.DisplayChip :=
  match es with
  | [] => d
  | e :: rest =>
    let seen := displaySeen k drv d
    displayThrough b drv k
      (displayGoes b d seen (displayLevels k drv (levelAfter e .ddData seen.1, levelAfter e (.ddClk k) seen.2))) rest

/-! ### The RTC chip -/

/-- Bit 7 - `n` of the register the pointer names: what the chip sends as the n-th bit of a byte. -/
def rtcSendsLow (c : Config.RtcChip) (n : Nat) : Bool := !(memRead c.regs c.ptr.toNat).getLsbD (7 - n)

/-- The clock rises with the data line at `sda`: a bit is sampled, bit 7 of a byte first; the ninth is the acknowledge. -/
def rtcRise (c : Config.RtcChip) (sda : Bool) : Config.RtcChip :=
  match c.phase with
  | .idle | .ignore => c
  | .send =>
    if c.count < 8 then { c with count := c.count + 1 }
    else { c with count := 9, phase := if sda then .ignore else .send }
  | .readAck => { c with count := 9 }
  | .address | .pointer | .store =>
    if c.count < 8 then { c with shift := (c.shift <<< 1) ||| (BitVec.ofBool sda).setWidth 8, count := c.count + 1 }
    else { c with count := 9 }

/-- The clock falls: the chip changes what it drives. DESIGN CHOICE (log 8): the register pointer is 8 bits wide and moves from 0xFF
to 0x00, where rule R66 names no register after the last. After the eighth bit it acts on the byte and acknowledges it, after the
ninth it lets go or sends the next bit. -/
def rtcFall (b : Config.Board) (c : Config.RtcChip) : Config.RtcChip :=
  match c.phase with
  | .idle | .ignore => { c with low := false }
  | .send =>
    if c.count = 8 then { c with low := false, ptr := c.ptr + 1 }
    else if c.count = 9 then { c with count := 0, low := rtcSendsLow c 0 }
    else { c with low := rtcSendsLow c c.count }
  | .readAck =>
    if c.count = 9 then { c with phase := .send, count := 0, low := rtcSendsLow c 0 } else c
  | .address =>
    if c.count = 8 then
      if c.shift = b.rtcAddrW then { c with phase := .pointer, low := true }
      else if c.shift = b.rtcAddrR then { c with phase := .readAck, low := true }
      else { c with phase := .ignore, low := false }
    else c
  | .pointer =>
    if c.count = 8 then { c with ptr := c.shift, phase := .store, low := true }
    else if c.count = 9 then { c with count := 0, shift := 0, low := false }
    else c
  | .store =>
    if c.count = 8 then { c with regs := memWrite c.regs c.ptr.toNat c.shift, ptr := c.ptr + 1, low := true }
    else if c.count = 9 then { c with count := 0, shift := 0, low := false }
    else c

/-- The two lines go from `scl0`, `sda0` to `scl1`, `sda1`: a data edge while the clock is high is a start (fall) or a stop
(rise), a rising clock samples, a falling clock changes what the chip drives. A chip that does not answer takes no notice. -/
def rtcEdge (b : Config.Board) (c : Config.RtcChip) (scl0 sda0 scl1 sda1 : Bool) : Config.RtcChip :=
  if !c.answers then c
  else if !scl0 && scl1 then rtcRise c sda1
  else if scl0 && !scl1 then rtcFall b c
  else if scl0 && scl1 && sda0 && !sda1 then { c with phase := .address, shift := 0, count := 0, low := false }
  else if scl0 && scl1 && !sda0 && sda1 then { c with phase := .idle, count := 0, low := false }
  else c

/-- The chip holds RTC_SDA low, rule R78. -/
def rtcPulls (c : Config.RtcChip) : Bool := c.answers && c.low

/-- The RTC chip while the driver states go from `drv0` to `drv1` and what the environment holds low from `held0` to `held1`. The
data line is 0 when either side holds it low. -/
def rtcMoves (b : Config.Board) (held0 held1 : LineMap Bool) (drv0 drv1 : LineMap Drive) (c : Config.RtcChip) : Config.RtcChip :=
  rtcEdge b c (lineLevel held0 drv0 .rtcScl) (lineLevel held0 drv0 .rtcSda && !rtcPulls c)
    (lineLevel held1 drv1 .rtcScl) (lineLevel held1 drv1 .rtcSda && !rtcPulls c)

/-- The RTC chip through a sequence of line writes that starts from the driver states `drv`. -/
def rtcRun (b : Config.Board) (held : LineMap Bool) (drv : LineMap Drive) (c : Config.RtcChip) (ws : List (Line × Drive)) :
    Config.RtcChip :=
  match ws with
  | [] => c
  | w :: rest => rtcRun b held (lineSet drv w.1 w.2) (rtcMoves b held held drv (lineSet drv w.1 w.2) c) rest

/-- What one event does to the chip by itself: a register changes, or the chip starts or stops to answer. -/
def rtcAfter (c : Config.RtcChip) (e : EnvEvent) : Config.RtcChip :=
  match e with
  | .rtcReg a v => { c with regs := memWrite c.regs a.toNat v }
  | .rtcAnswers b => { c with answers := b }
  | .timerOverflow | .holdLow _ | .letGo _ => c

/-- The RTC chip through a batch of environment events. -/
def rtcThrough (b : Config.Board) (drv : LineMap Drive) (held : LineMap Bool) (c : Config.RtcChip) (es : List EnvEvent) :
    Config.RtcChip :=
  match es with
  | [] => c
  | e :: rest => rtcThrough b drv (heldAfter held e) (rtcAfter (rtcMoves b held (heldAfter held e) drv drv c) e) rest

end Sys2Proof.Machine
end

