-- ==== Sys2Proof/Machine/Ops.lean ====
section
/-! DEFINITION. The named operations the meanings are made of: driving lines and reading them (rules R14, R124), the
environment's chances to act and the pending latches (R272, R273), entering and leaving a handler (R278, R281), the hold of
SEQ.WAIT (R241), and the checks that refuse (R92, R102). -/

namespace Sys2Proof.Machine

/-! ### Driving lines -/

/-- Driver states after a sequence of line writes. -/
def driveAll (drv : LineMap Drive) (ws : List (Line × Drive)) : LineMap Drive :=
  ws.foldl (fun d w => lineSet d w.1 w.2) drv

/-- A sequence of line writes `W(L, v)`, left to right, rule R14: each sets its line's driver state, is appended to the trace
and is seen by the chips. -/
def State.drive (s : State) (ws : List (Line × Drive)) : State :=
  { s with
    drv := driveAll s.drv ws
    trace := s.trace ++ ws.map fun w => .wrote w.1 w.2
    rtcChip := rtcRun s.board s.env.held s.drv s.rtcChip ws
    displays := nineOf fun k => displayRun s.board (Config.floatingLevels s.env.drawn) s.trace.length k s.drv (nineGet s.displays k) ws }

/-- `pulse(L)`, rule R15: 1 then 0. -/
def pulse (l : Line) : List (Line × Drive) := [(l, .high), (l, .low)]

/-- `dd_data(b)`, rule R15. -/
def ddData (b : Bool) : Line × Drive := (.ddData, if b then .high else .low)

/-- `sda(b)`, rule R15: 0 drives low, 1 releases. -/
def sda (b : Bool) : Line × Drive := (.rtcSda, if b then .z else .low)

/-! ### The environment -/

/-- The level of a line now, rule R14; the RTC chip may hold RTC_SDA low (rule R78). -/
def State.level (s : State) (l : Line) : Bool :=
  levelOf (lineGet s.drv l) (lineGet s.env.held l || (l == .rtcSda && rtcPulls s.rtcChip))

/-- Does one event change the level of a button line, rule R273. -/
def buttonEdge (drv : LineMap Drive) (held : LineMap Bool) (e : EnvEvent) : Bool :=
  buttons.any fun b => lineLevel held drv (.btn b) != lineLevel (heldAfter held e) drv (.btn b)

/-- Does a batch of events change the level of a button line at some point, rule R273. -/
def buttonEdges (drv : LineMap Drive) (held : LineMap Bool) (es : List EnvEvent) : Bool :=
  match es with
  | [] => false
  | e :: rest => buttonEdge drv held e || buttonEdges drv (heldAfter held e) rest

/-- A batch of environment events happens. An overflow or a button edge sets its source's latch if the source is enabled and is
lost otherwise; a latch already set stays set (rules R35, R272, R273). The chips see the levels of released lines change. -/
def State.absorb (s : State) (es : List EnvEvent) : State :=
  { s with
    pend :=
      { timer := s.pend.timer || (s.srcEn.timer && es.contains .timerOverflow)
        button := s.pend.button || (s.srcEn.button && buttonEdges s.drv s.env.held es) }
    env := { s.env with held := es.foldl heldAfter s.env.held }
    rtcChip := rtcThrough s.board s.drv s.env.held s.rtcChip es
    displays := nineOf fun k => displayThrough s.board s.drv k (nineGet s.displays k) es }

/-- The next batch of events: the script's, or a free one when the script is used up (log 4). -/
def Env.batch (e : Env) : List EnvEvent :=
  match e.script with
  | [] => Config.freeEvents e.drawn
  | es :: _ => es

/-- The environment after its next batch is taken. -/
def Env.afterBatch (e : Env) : Env :=
  { e with
    script := e.script.tail
    drawn := if e.script.isEmpty then e.drawn + 1 else e.drawn }

/-- The environment's chance to act: before every operation, before every read of a released line, and in the hold of
SEQ.WAIT (log 4). -/
def State.arrive (s : State) : State := ({ s with env := s.env.afterBatch }).absorb s.env.batch

/-- The state in which `read(L)` takes its sample, rule R14: a released line's level is the environment's, which may act
first. -/
def State.beforeRead (s : State) (l : Line) : State :=
  if lineGet s.drv l = .z then s.arrive else s

/-- What `read(L)` returns, rule R14. -/
def State.readsAs (s : State) (l : Line) : Bool := (s.beforeRead l).level l

/-- The state after `read(L)`: `R(L, b)` is appended to the trace and nothing else of the block changes. -/
def State.afterRead (s : State) (l : Line) : State :=
  { s.beforeRead l with trace := (s.beforeRead l).trace ++ [.sampled l (s.readsAs l)] }

/-! ### Interrupts -/

/-- Is a source pending. -/
def State.anyPending (s : State) : Bool := s.pend.timer || s.pend.button

/-- The scripted part of the hold: batches of events happen until a source is pending or the script is used up. -/
def holdScript (script : List (List EnvEvent)) (s : State) : State :=
  match script with
  | [] => s
  | _ :: rest => if s.anyPending then s else holdScript rest s.arrive

/-- The hold of SEQ.WAIT, rule R241: empty if a source is pending; else the environment acts until one is. Once nothing
scripted is left, one free batch happens, and if that makes nothing pending the periodic timer overflows, if it is enabled
(rule R332, log 9). `none`: the hold never ends. -/
def State.hold (s : State) : Option State :=
  let s1 := holdScript s.env.script s
  if s1.anyPending then some s1
  else
    let s2 := s1.arrive
    if s2.anyPending then some s2
    else if s2.srcEn.timer then some (s2.absorb [.timerOverflow])
    else none

/-- Which pending source is serviced: any when both are, rule R277; the script's choice or a free one (log 6). -/
def State.serviced (s : State) : Source :=
  if s.pend.timer && s.pend.button then
    match s.env.picks with
    | [] => Config.freeSource s.env.drawn
    | p :: _ => p
  else if s.pend.timer then .timer
  else .button

/-- The environment after the choice of the serviced source is taken: only a choice between two uses one up. -/
def Env.afterPick (e : Env) (both : Bool) : Env :=
  if both then { e with picks := e.picks.tail, drawn := if e.picks.isEmpty then e.drawn + 1 else e.drawn } else e

/-- Handler entry, rule R278: the source's latch is cleared and IN_HANDLER set; nothing is saved. -/
def State.enterHandler (s : State) (src : Source) : State :=
  { s with
    env := s.env.afterPick (s.pend.timer && s.pend.button)
    pend :=
      match src with
      | .timer => { s.pend with timer := false }
      | .button => { s.pend with button := false }
    inHandler := true }

/-- Handler return, rule R281: IN_HANDLER is cleared; there is nothing to restore. -/
def State.leaveHandler (s : State) : State := { s with inHandler := false }

/-- The mailbox write, rule R243: last write wins. -/
def State.post (s : State) (e : Event) : State := { s with evt := e }

/-! ### Refusals -/

/-- Only the main context may execute the operation, rule R102. -/
def inMain (s : State) (a : Answer) : Answer := if s.inHandler then .refused .wrongContext else a

/-- Only a handler may execute the operation, rule R102. -/
def inHandlerOnly (s : State) (a : Answer) : Answer := if s.inHandler then a else .refused .wrongContext

/-- A `line` operand, rule R95: an unknown id is refused. -/
def withLine (id : BitVec 8) (f : Line → Answer) : Answer :=
  match lineOfId id with
  | some l => f l
  | none => .refused .unknownLine

/-- A line that may be driven, rule R125: a button line is refused. -/
def drivable (l : Line) (a : Answer) : Answer :=
  match l with
  | .btn _ => .refused .buttonDriven
  | .ddData | .ddClk _ | .rtcScl | .rtcSda => a

/-- A `chip` operand, rule R92: above 8 is refused. -/
def withChip (c : BitVec 4) (f : Chip → Answer) : Answer :=
  match chipOf c with
  | some k => f k
  | none => .refused .chipOutOfRange

/-- An `event` operand, rule R92: above 4 is refused. -/
def withEvent (e : BitVec 3) (f : Event → Answer) : Answer :=
  match eventOf e with
  | some v => f v
  | none => .refused .eventOutOfRange

/-- An answer that is a next state goes on. -/
def thenDo (a : Answer) (f : State → Answer) : Answer :=
  match a with
  | .next s => f s
  | .fault r => .fault r
  | .refused r => .refused r

/-! ### Power -/

/-- The RTC chip after main power was lost and came back at the n-th power-on, rules R78 and R314: its registers keep their values
if the backup power lasted (`backup`); if not they are free but for the halt bit, bit 7 of the seconds register, which reads 1.
Nothing else of the chip survives. -/
def rtcAfterPowerLoss (b : Config.Board) (n : Nat) (backup : Bool) (c : Config.RtcChip) : Config.RtcChip :=
  let lost := (rtcAtReset n).regs
  { rtcAtReset n with
    regs := if backup then c.regs else memWrite lost b.regSeconds.toNat (memRead lost b.regSeconds.toNat ||| 0x80) }

/-- Loss of main power and power-on, a reset, rules R288, R310 and R314: everything of the block has its reset value, the RTC chip's
registers are battery-backed, and the board and the environment go on. It is applied from outside between two steps (log 14). -/
def State.powerOn (s : State) (backup : Bool) : State :=
  let n := s.env.drawn + 1
  { State.reset with
    board := s.board
    env := { s.env with drawn := n }
    rtcChip := rtcAfterPowerLoss s.board n backup s.rtcChip
    displays := nineOf (displayAtReset n) }

/-! ### The command port -/

/-- The operation the step takes up: the first presented command word, or none, and then the sequencer goes on by itself. -/
def State.presented (s : State) : Option CmdWord := s.port.head?

/-- The state with the first presented word taken off the port. -/
def State.takeWord (s : State) : State := { s with port := s.port.tail }

/-- Present a command word: it is the next one taken up. -/
def State.offer (s : State) (w : CmdWord) : State := { s with port := w :: s.port }

end Sys2Proof.Machine
end

