-- ==== Sys2Proof/Machine/Display.lean ====
section
/-! DEFINITION. The display-driver protocol, rules R130 to R147. Every operation is a fixed sequence of line writes, whatever
the lines were (R146), on DD_DATA and the addressed chip's clock only (R130); none reads a line (R145). -/

namespace Sys2Proof.Machine

/-- `start(chip)`, rule R131. -/
def startWrites (k : Chip) : List (Line × Drive) := [(.ddData, .low), (.ddClk k, .low)]

/-- `stop(chip)`, rule R132. -/
def stopWrites (k : Chip) : List (Line × Drive) := [(.ddData, .low), (.ddClk k, .high), (.ddData, .high)]

/-- `send_bit(chip, bit)`, rule R133. -/
def bitWrites (k : Chip) (b : Bool) : List (Line × Drive) := ddData b :: pulse (.ddClk k)

/-- A sequence of bits sent with `send_bit`. -/
def bitsWrites (k : Chip) (bs : List Bool) : List (Line × Drive) := bs.flatMap (bitWrites k)

/-- The eight bits of a byte, bit 0 first, rule R134. -/
def bitsLsbFirst (v : Byte) : List Bool := (List.range 8).map v.getLsbD

/-- `send_byte(chip, byte)`, rule R134: bit 0 first. -/
def byteWrites (k : Chip) (v : Byte) : List (Line × Drive) := bitsWrites k (bitsLsbFirst v)

/-- `planes(row_a, row_b)`, rule R140: plane p holds bit p of the eight bytes of `row_a` and then of `row_b`. -/
def planes (rowA rowB : List Byte) : List Bool :=
  (List.range 8).flatMap fun p => (rowA ++ rowB).map fun v => v.getLsbD p

/-- A byte whose bit i is element i of a list of bits. -/
def byteOfBits (bs : List Bool) : Byte :=
  match bs with
  | [] => 0
  | b :: rest => (byteOfBits rest <<< 1) ||| (BitVec.ofBool b).setWidth 8

/-- The inverse of `planes`, rule R141: byte i of the 16 takes its bit p from bit 16*p + i of the sequence. -/
def unplanes (bs : List Bool) : List Byte :=
  (List.range 16).map fun i => byteOfBits ((List.range 8).map fun p => bs.getD (16 * p + i) false)

/-- The frame as 16 bytes on the wire, rule R142: byte 2p is plane p of `row_a`, byte 2p + 1 plane p of `row_b`, bit i from
cell i. -/
def wireBytes (rowA rowB : List Byte) : List Byte :=
  (List.range 8).flatMap fun p =>
    [byteOfBits (rowA.map fun v => v.getLsbD p), byteOfBits (rowB.map fun v => v.getLsbD p)]

/-- `send_frame(chip, row_a, row_b)`, rule R135. -/
def sendFrame (b : Config.Board) (k : Chip) (rowA rowB : List Byte) : List (Line × Drive) :=
  startWrites k ++ byteWrites k b.cmdAutoInc ++ stopWrites k
    ++ startWrites k ++ byteWrites k b.cmdAddr0 ++ bitsWrites k (planes rowA rowB) ++ stopWrites k

/-- `CELL_MAP[k][j]`, rule R71. -/
def mapCell (b : Config.Board) (k : Chip) (j : Nat) : Cell := b.cellMap.getD (16 * k.val + j) default

/-- The eight bytes of the frame buffer that are slots `j .. j+7` of a chip's frame, rule R135. -/
def frameRow (b : Config.Board) (fb : Memory) (k : Chip) (j : Nat) : List Byte :=
  (List.range 8).map fun i => memRead fb (cellAddr (mapCell b k (j + i)))

/-- DD.FRAME's writes, rule R135: the rows come from the frame buffer through CELL_MAP. -/
def frameWrites (b : Config.Board) (fb : Memory) (k : Chip) : List (Line × Drive) :=
  sendFrame b k (frameRow b fb k 0) (frameRow b fb k 8)

/-- DD.PRESENT's writes, rule R143: one frame per chip in increasing order. -/
def presentWrites (b : Config.Board) (fb : Memory) : List (Line × Drive) := chips.flatMap (frameWrites b fb)

/-- DD.ALLON's writes, rule R144: the display-on command in a bracket of its own, chip by chip. -/
def allOnWrites (b : Config.Board) : List (Line × Drive) :=
  chips.flatMap fun k => startWrites k ++ byteWrites k b.cmdDisplayOn ++ stopWrites k

/-- `present(frame_buffer)`, rule R143. -/
def State.ddPresent (s : State) : State := s.drive (presentWrites s.board s.fb)

/-- `all_on()`, rule R144. -/
def State.ddAllOn (s : State) : State := s.drive (allOnWrites s.board)

/-- DD.START, rule R131. -/
def execDdStart (chip : BitVec 4) (s : State) : Answer :=
  inMain s (withChip chip fun k => .next (s.drive (startWrites k)))

/-- DD.STOP, rule R132. -/
def execDdStop (chip : BitVec 4) (s : State) : Answer :=
  inMain s (withChip chip fun k => .next (s.drive (stopWrites k)))

/-- DD.BIT, rule R133. -/
def execDdBit (chip : BitVec 4) (bit : Bool) (s : State) : Answer :=
  inMain s (withChip chip fun k => .next (s.drive (bitWrites k bit)))

/-- DD.BYTE, rule R134. -/
def execDdByte (chip : BitVec 4) (byte : Byte) (s : State) : Answer :=
  inMain s (withChip chip fun k => .next (s.drive (byteWrites k byte)))

/-- DD.FRAME, rule R135. -/
def execDdFrame (chip : BitVec 4) (s : State) : Answer :=
  inMain s (withChip chip fun k => .next (s.drive (frameWrites s.board s.fb k)))

/-- DD.PRESENT, rule R143. -/
def execDdPresent (s : State) : Answer := inMain s (.next s.ddPresent)

/-- DD.ALLON, rule R144. -/
def execDdAllon (s : State) : Answer := inMain s (.next s.ddAllOn)

end Sys2Proof.Machine
end

