-- ==== Sys2Proof/Machine/FrameBuffer.lean ====
section
/-! DEFINITION. The frame buffer and the renderer, rules R200 to R222. The painting functions are the rules' pure forms on the
frame buffer; nothing here touches a line (R222). -/

namespace Sys2Proof.Machine

/-- A segment pattern as a byte: bit 7 is 0, rules R30, R31. -/
def segByte (x : Seg) : Byte := x.setWidth 8

/-- `FONT[g][r][c]`, rule R63. -/
def fontByte (b : Config.Board) (g r c : Nat) : Byte := segByte (b.font.getD (fontAddr g r c) 0)

/-- `DIGIT7[d]`, rule R63. -/
def digitByte (b : Config.Board) (d : Nat) : Byte := segByte (b.digit7.getD d 0)

/-- The 30 writes of `big_char(glyph, col)`, rule R201. -/
def glyphWrites (b : Config.Board) (g col : Nat) : List (Nat × Byte) :=
  (List.range 6).flatMap fun r => (List.range 5).map fun c => (fbAddr r (col + c), fontByte b g r c)

/-- `big_char(glyph, col)` on a frame buffer, rule R201: the copy overwrites. -/
def bigChar (b : Config.Board) (g col : Nat) (fb : Memory) : Memory := memWriteAll fb (glyphWrites b g col)

/-- `slot_col(s)`, rule R208: slots 2 and 3 lie past the colon's reserved columns. -/
def slotCol (b : Config.Board) (slot : Nat) : Nat := if slot < 2 then 5 * slot else 5 * slot + b.colonWidth.val

/-- `FB[cell] <- v`. -/
def paint (x : Cell) (v : Byte) (fb : Memory) : Memory := memWrite fb (cellAddr x) v

/-- `FB[cell] <- FB[cell] | v`. -/
def paintOr (x : Cell) (v : Byte) (fb : Memory) : Memory := memWrite fb (cellAddr x) (memRead fb (cellAddr x) ||| v)

/-- `render_clock(t)`, rule R210: a leading zero hour is not drawn. -/
def renderClock (b : Config.Board) (t : TimeOfDay) (fb : Memory) : Memory :=
  let fb0 := if t.ht = 1 then bigChar b 1 (slotCol b 0) fb else fb
  let fb1 := bigChar b t.ho.toNat (slotCol b 1) fb0
  let fb2 := paint b.colonCell0 b.colonPattern0 fb1
  let fb3 := paint b.colonCell1 b.colonPattern1 fb2
  let fb4 := bigChar b t.mt.toNat (slotCol b 2) fb3
  bigChar b t.mo.toNat (slotCol b 3) fb4

/-- `UL_CELL[mode]`, rule R220: the underline cell of the field a setting mode edits. -/
def underlineCell (b : Config.Board) (m : Mode) : Cell :=
  match m with
  | .clock | .setHours => b.layout.ulHours
  | .setMinutesTens => b.layout.ulTens
  | .setMinutesOnes => b.layout.ulOnes

/-- `render_set(mode, s)`, rules R215 to R220. -/
def renderSet (b : Config.Board) (m : Mode) (x : Scratch) (fb : Memory) : Memory :=
  let fb0 := paint b.layout.label0 (segByte b.labelS) fb
  let fb1 := paint b.layout.label1 (segByte b.labelE) fb0
  let fb2 := paint b.layout.label2 (segByte b.labelT) fb1
  let fb3 := if 10 ≤ x.h.toNat then paint b.layout.ht (digitByte b (x.h.toNat / 10)) fb2 else fb2
  let fb4 := paint b.layout.ho (digitByte b (x.h.toNat % 10) ||| 0x80) fb3
  let fb5 := paint b.layout.mt (digitByte b x.mt.toNat) fb4
  let fb6 := paint b.layout.mo (digitByte b x.mo.toNat) fb5
  paintOr (underlineCell b m) 0x80 fb6

/-- `render(mode, time, scratch)` on a frame buffer, rule R205. -/
def render (b : Config.Board) (m : Mode) (t : TimeOfDay) (x : Scratch) (fb : Memory) : Memory :=
  match m with
  | .clock => renderClock b t fb
  | .setHours | .setMinutesTens | .setMinutesOnes => renderSet b m x fb

/-- Every digit the render would draw has an entry in its table, rules R201 and R63; in every state a run reaches it has (R213,
R219). -/
def State.digitsDrawable (s : State) : Bool :=
  match s.mode with
  | .clock => decide (s.time.ho.toNat ≤ 9) && decide (s.time.mo.toNat ≤ 9)
  | .setHours | .setMinutesTens | .setMinutesOnes => decide (s.scratch.mo.toNat ≤ 9)

/-- FB.RENDER's effect, rule R205: it does not clear first. -/
def State.fbRender (s : State) : State := { s with fb := render s.board s.mode s.time s.scratch s.fb }

/-- FB.CLEAR's effect, rule R200: all 144 bytes are 0. -/
def State.fbClear (s : State) : State := { s with fb := [] }

/-- FB.CLEAR, rule R200. -/
def execFbClear (s : State) : Answer := inMain s (.next s.fbClear)

/-- FB.BIGCHAR, rule R201. -/
def execFbBigchar (glyph : BitVec 4) (col : BitVec 5) (s : State) : Answer :=
  inMain s
    (if !glyphOk glyph then .refused .glyphOutOfRange
     else if !colOk col then .refused .columnOutOfRange
     else .next { s with fb := bigChar s.board glyph.toNat col.toNat s.fb })

/-- FB.RENDER, rule R205. -/
def execFbRender (s : State) : Answer :=
  inMain s (if s.digitsDrawable then .next s.fbRender else .refused .digitOutOfTable)

end Sys2Proof.Machine
end

