-- ==== Sys2Proof/Machine/Mailbox.lean ====
section
/-! DEFINITION. The mailbox (rules R242, R243) and the two interrupt handlers, which do nothing but sample the button lines and
post one event (R279, R280, R285). -/

namespace Sys2Proof.Machine

/-- EVT.TAKE's effect, rule R242: RES[2:0] is the code, RES[7:3] is 0 (rule R28), and the mailbox is empty. -/
def State.take (s : State) : State := { s with res := (eventCode s.evt).setWidth 8, evt := .none }

/-- The timer handler, rule R279. -/
def State.timerHandler (s : State) : State := s.post .timeTick

/-- The event a pressed button stands for, rule R287. -/
def buttonEvent (b : Button) : Event :=
  match b with
  | .set => .setPressed
  | .inc => .incPressed
  | .dec => .decPressed

/-- The state after the three reads of the button handler, rule R280: Set, Inc, Dec, once each, after the debounce delay. -/
def State.afterButtons (s : State) : State := ((s.afterRead (.btn .set)).afterRead (.btn .inc)).afterRead (.btn .dec)

/-- The level each button line was read at, rule R280. -/
def State.buttonReads (s : State) (b : Button) : Bool :=
  match b with
  | .set => s.readsAs (.btn .set)
  | .inc => (s.afterRead (.btn .set)).readsAs (.btn .inc)
  | .dec => ((s.afterRead (.btn .set)).afterRead (.btn .inc)).readsAs (.btn .dec)

/-- The event the button handler posts, rules R280 and R291: the first button by BTN_PRIORITY whose line read low, or None. -/
def State.buttonPosts (s : State) : Event :=
  if !s.buttonReads s.board.prio0 then buttonEvent s.board.prio0
  else if !s.buttonReads s.board.prio1 then buttonEvent s.board.prio1
  else if !s.buttonReads s.board.prio2 then buttonEvent s.board.prio2
  else .none

/-- The button handler, rule R280. The debounce delay changes no state and appends nothing to the trace (rules R280, R292). -/
def State.buttonHandler (s : State) : State := s.afterButtons.post s.buttonPosts

/-- The handler of a source, rule R271. -/
def State.handler (s : State) (src : Source) : State :=
  match src with
  | .timer => s.timerHandler
  | .button => s.buttonHandler

/-- EVT.POST, rule R243: handler context only. -/
def execEvtPost (event : BitVec 3) (s : State) : Answer :=
  inHandlerOnly s (withEvent event fun e => .next (s.post e))

/-- EVT.TAKE, rule R242. -/
def execEvtTake (s : State) : Answer := inMain s (.next s.take)

end Sys2Proof.Machine
end

