-- ==== Sys2Proof/Machine/Pin.lean ====
section
/-! DEFINITION. The pin primitives, rules R120 to R125. -/

namespace Sys2Proof.Machine

/-- PIN.READ once the line is known, rule R122: the level goes to RES[0], RES[7:1] is 0 (rule R28). -/
def State.pinRead (s : State) (l : Line) : State :=
  { s.afterRead l with res := (BitVec.ofBool (s.readsAs l)).setWidth 8 }

/-- PIN.SET, rule R120. -/
def execPinSet (line : BitVec 8) (s : State) : Answer :=
  inMain s (withLine line fun l => drivable l (.next (s.drive [(l, .high)])))

/-- PIN.CLR, rule R121. -/
def execPinClr (line : BitVec 8) (s : State) : Answer :=
  inMain s (withLine line fun l => drivable l (.next (s.drive [(l, .low)])))

/-- PIN.READ, rule R122. -/
def execPinRead (line : BitVec 8) (s : State) : Answer :=
  inMain s (withLine line fun l => .next (s.pinRead l))

/-- PIN.TRI, rule R123. -/
def execPinTri (line : BitVec 8) (s : State) : Answer :=
  inMain s (withLine line fun l => .next (s.drive [(l, .z)]))

end Sys2Proof.Machine
end

