-- ==== Sys2Proof/Machine/Flags.lean ====
section
/-! DEFINITION. The two flags of the block, REDRAW (R26) and RTC_INVALID (R27), and what decides them: decoding the RTC's two
bytes (R171), the validity of a decoded time (R185), whether it differs from the held one (R172). -/

namespace Sys2Proof.Machine

/-- `decode(m, h)`, rule R171: the flag bits 7:5 of the hours byte and bit 7 of the minutes byte are discarded. -/
def decodeTime (m h : Byte) : TimeOfDay :=
  { ht := h.extractLsb' 4 1, ho := h.extractLsb' 0 4, mt := m.extractLsb' 4 3, mo := m.extractLsb' 0 4 }

/-- The combined hour `10*ht + ho`, rules R22 and R251. -/
def combinedHour (t : TimeOfDay) : Nat := 10 * t.ht.toNat + t.ho.toNat

/-- `valid(ht, ho, mt, mo)`, rule R185. -/
def validTime (t : TimeOfDay) : Bool :=
  decide (t.mt.toNat ≤ 5) && decide (t.mo.toNat ≤ 9) && decide (t.ho.toNat ≤ 9)
    && decide (1 ≤ combinedHour t) && decide (combinedHour t ≤ 12)

/-- `differs(new, old)`, rule R172: any of the four digit fields is different. -/
def differs (new old : TimeOfDay) : Bool :=
  new.ht != old.ht || new.ho != old.ho || new.mt != old.mt || new.mo != old.mo

/-- What RTC.GETTIME does with a decoded value, rules R170, R172, R185: a valid one becomes TIME and REDRAW is assigned whether
it differs; any other is rejected, TIME stays, REDRAW is 0 and the sticky RTC_INVALID is set. -/
def State.settle (s : State) (new : TimeOfDay) : State :=
  if validTime new then { s with redraw := differs new s.time, time := new }
  else { s with redraw := false, rtcInvalid := true }

/-- REDRAW asks SEQ.ITER for a render, and so does every setting mode, rule R240. -/
def State.wantsRender (s : State) : Bool := s.mode != .clock || s.redraw

/-- The clearing of REDRAW after a present, rule R240: only if the parameter REDRAW_CLEAR is true. -/
def State.clearRedraw (s : State) : State := { s with redraw := s.redraw && !s.board.redrawClear }

end Sys2Proof.Machine
end

