-- ==== Sys2Proof/Machine/Rtc.lean ====
section
/-! DEFINITION. The RTC register engine, rules R160 to R187. RTC_SDA is driven low or released, never driven high; RTC_SCL is
driven and never read (R160); no acknowledgement is sampled (R16, R163). -/

namespace Sys2Proof.Machine

/-- `start()`, rule R161. -/
def rtcStartWrites : List (Line × Drive) := [(.rtcScl, .high), (.rtcSda, .low), (.rtcScl, .low)]

/-- `stop()`, rule R162. -/
def rtcStopWrites : List (Line × Drive) := [(.rtcSda, .low), (.rtcScl, .high), (.rtcSda, .z)]

/-- The bit positions 7 down to 0: the RTC bus is most significant first, rule R68. -/
def msbFirst : List Nat := [7, 6, 5, 4, 3, 2, 1, 0]

/-- `tx_byte(byte)`, rule R163: eight bits, then the line is released for one more pulse. -/
def txWrites (v : Byte) : List (Line × Drive) :=
  (msbFirst.flatMap fun i => sda (v.getLsbD i) :: pulse .rtcScl) ++ (.rtcSda, .z) :: pulse .rtcScl

/-- `begin_transfer(direction, register_address)`, rule R165. -/
def beginWrites (b : Config.Board) (dir : Dir) (reg : Byte) : List (Line × Drive) :=
  rtcStartWrites ++ txWrites b.rtcAddrW ++ txWrites reg
    ++ (match dir with
        | .write => []
        | .read => rtcStartWrites ++ txWrites b.rtcAddrR)

/-- One bit of `rx_byte`, rule R164: the clock rises, the line is sampled, the clock falls. -/
def State.rxBit (s : State) : State := ((s.drive [(.rtcScl, .high)]).afterRead .rtcSda).drive [(.rtcScl, .low)]

/-- The bit that `rxBit` samples. -/
def State.rxSample (s : State) : Bool := (s.drive [(.rtcScl, .high)]).readsAs .rtcSda

/-- `n` bits received, the first the most significant: the value collected so far is `v`. -/
def rxValue (n : Nat) (v : Byte) (s : State) : Byte :=
  match n with
  | 0 => v
  | n + 1 => rxValue n ((v <<< 1) ||| (BitVec.ofBool s.rxSample).setWidth 8) s.rxBit

/-- The state after `n` bits received. -/
def rxState (n : Nat) (s : State) : State :=
  match n with
  | 0 => s
  | n + 1 => rxState n s.rxBit

/-- The end of `rx_byte`, rule R164: drive the line low for an acknowledge, or leave it released, and pulse the clock. -/
def ackWrites (ack : Bool) : List (Line × Drive) := (if ack then [(.rtcSda, .low)] else []) ++ pulse .rtcScl

/-- The byte `rx_byte` receives, rule R164. -/
def State.rxByte (s : State) : Byte := rxValue 8 0 (s.drive [(.rtcSda, .z)])

/-- `rx_byte(ack_or_nack)`, rule R164: the byte goes to RES (rule R28). -/
def State.rx (s : State) (ack : Bool) : State :=
  { (rxState 8 (s.drive [(.rtcSda, .z)])).drive (ackWrites ack) with res := s.rxByte }

/-- `enc_minutes(mt, mo)`, rule R176. -/
def encMinutes (mt : BitVec 3) (mo : BitVec 4) : Byte := (mt.setWidth 8 <<< 4) ||| mo.setWidth 8

/-- `enc_hours(h)`, rule R176: the 12-hour flag is bit 6, the AM/PM flag is written 0. -/
def encHours (h : BitVec 4) : Byte := 0x40 ||| ((h.setWidth 8 / 10) <<< 4) ||| h.setWidth 8 % 10

/-- `get_time()` up to the first received byte, rule R170: the minutes register is addressed for a read. -/
def State.rxMinutes (s : State) : State := (s.drive (beginWrites s.board .read s.board.regMinutes)).rx true

/-- `get_time()` up to the second received byte, rule R170. -/
def State.rxHours (s : State) : State := s.rxMinutes.rx false

/-- `get_time()`, rule R170. -/
def State.getTime (s : State) : State :=
  (s.rxHours.drive rtcStopWrites).settle (decodeTime s.rxMinutes.res s.rxHours.res)

/-- A write transfer of seconds, minutes and hours, rules R175 and R180. -/
def setTimeWrites (b : Config.Board) (sec min hour : Byte) : List (Line × Drive) :=
  beginWrites b .write b.regSeconds ++ txWrites sec ++ txWrites min ++ txWrites hour ++ rtcStopWrites

/-- `set_time(scratch)`, rule R175: seconds are written 0. -/
def State.setTime (s : State) : State :=
  s.drive (setTimeWrites s.board 0x00 (encMinutes s.scratch.mt s.scratch.mo) (encHours s.scratch.h))

/-- The first part of `init()`, rule R180: the seconds register is read into RES. -/
def State.readSeconds (s : State) : State :=
  ((s.drive (beginWrites s.board .read s.board.regSeconds)).rx false).drive rtcStopWrites

/-- The "clock halted" bit, bit 7 of the seconds byte, rules R7 and R67. -/
def haltBit (sec : Byte) : Bool := sec.getLsbD 7

/-- The second part of `init()`, rule R180: a halted clock is started at 12:00 AM. -/
def State.startClock (s : State) : State :=
  if haltBit s.res then s.drive (setTimeWrites s.board 0x00 0x00 Config.hoursInit) else s

/-- `init()`, rule R180. -/
def State.rtcInit (s : State) : State := s.readSeconds.startClock.getTime

/-- RTC.START, rule R161. -/
def execRtcStart (s : State) : Answer := inMain s (.next (s.drive rtcStartWrites))

/-- RTC.STOP, rule R162. -/
def execRtcStop (s : State) : Answer := inMain s (.next (s.drive rtcStopWrites))

/-- RTC.TX, rule R163. -/
def execRtcTx (byte : Byte) (s : State) : Answer := inMain s (.next (s.drive (txWrites byte)))

/-- RTC.RX, rule R164. -/
def execRtcRx (ack : Bool) (s : State) : Answer := inMain s (.next (s.rx ack))

/-- RTC.BEGIN, rule R165. -/
def execRtcBegin (dir : Dir) (reg : Byte) (s : State) : Answer := inMain s (.next (s.drive (beginWrites s.board dir reg)))

/-- RTC.GETTIME, rule R170. -/
def execRtcGettime (s : State) : Answer := inMain s (.next s.getTime)

/-- RTC.SETTIME, rule R175. -/
def execRtcSettime (s : State) : Answer := inMain s (.next s.setTime)

/-- RTC.INIT, rule R180. -/
def execRtcInit (s : State) : Answer := inMain s (.next s.rtcInit)

end Sys2Proof.Machine
end

