-- ==== Sys2Proof/Machine/Sequencer.lean ====
section
/-! DEFINITION. The sequencer: the field edits (R250), the event dispatch (R230 to R237), SEQ.WAIT (R241), SEQ.ITER (R240),
SEQ.SELFTEST (R246) and SEQ.BOOT (R245), and what the sequencer does by itself between command words (R312). -/

namespace Sys2Proof.Machine

/-! ### Field edits, rule R250 -/

/-- `inc_h`. -/
def incH (h : BitVec 4) : BitVec 4 := if h.toNat ≥ 12 then 1 else h + 1

/-- `dec_h`. -/
def decH (h : BitVec 4) : BitVec 4 := if h.toNat ≤ 1 then 12 else h - 1

/-- `inc_mt`. -/
def incMt (x : BitVec 3) : BitVec 3 := if x.toNat ≥ 5 then 0 else x + 1

/-- `dec_mt`. -/
def decMt (x : BitVec 3) : BitVec 3 := if x.toNat = 0 then 5 else x - 1

/-- `inc_mo`. -/
def incMo (x : BitVec 4) : BitVec 4 := if x.toNat ≥ 9 then 0 else x + 1

/-- `dec_mo`. -/
def decMo (x : BitVec 4) : BitVec 4 := if x.toNat = 0 then 9 else x - 1

/-! ### Dispatch -/

/-- The hour of a snapshot, rule R232: `10*ht + ho`; a sum that does not fit the 4 bits is a free value (log 12). -/
def snapshotHour (t : TimeOfDay) : BitVec 4 :=
  if combinedHour t < 16 then BitVec.ofNat 4 (combinedHour t) else Config.unfitHour t.ht t.ho

/-- `snapshot`, rule R232. -/
def State.snapshot (s : State) : State :=
  { s with scratch := { h := snapshotHour s.time, mt := s.time.mt, mo := s.time.mo } }

/-- `commit`, rule R233: the redraw is forced after the time is read back. -/
def State.commit (s : State) : State := { s.setTime.getTime with redraw := true }

/-- `on_set`, rule R231. -/
def State.onSet (s : State) : State :=
  match s.mode with
  | .clock => { s.snapshot with mode := .setHours }
  | .setHours => { s with mode := .setMinutesTens }
  | .setMinutesTens => { s with mode := .setMinutesOnes }
  | .setMinutesOnes => { s.commit with mode := .clock }

/-- `on_inc`, rule R234. -/
def State.onInc (s : State) : State :=
  match s.mode with
  | .clock => s
  | .setHours => { s with scratch := { s.scratch with h := incH s.scratch.h } }
  | .setMinutesTens => { s with scratch := { s.scratch with mt := incMt s.scratch.mt } }
  | .setMinutesOnes => { s with scratch := { s.scratch with mo := incMo s.scratch.mo } }

/-- `on_dec`, rule R235. -/
def State.onDec (s : State) : State :=
  match s.mode with
  | .clock => s
  | .setHours => { s with scratch := { s.scratch with h := decH s.scratch.h } }
  | .setMinutesTens => { s with scratch := { s.scratch with mt := decMt s.scratch.mt } }
  | .setMinutesOnes => { s with scratch := { s.scratch with mo := decMo s.scratch.mo } }

/-- The arm of an event, rules R230, R236, R237. -/
def State.onEvent (s : State) (e : Event) : State :=
  match e with
  | .setPressed => s.onSet
  | .incPressed => s.onInc
  | .decPressed => s.onDec
  | .timeTick => s.getTime
  | .none => s

/-- SEQ.DISPATCH's effect, rule R230: the arm runs, then the mailbox is cleared. DEDUCED (log 16): the registers written are EVT and
those of the arm, as R230 and R28 say, so RES is not, though R101's row lists EVT.TAKE. -/
def State.dispatch (s : State) : State := { s.onEvent s.evt with evt := .none }

/-! ### Waiting -/

/-- Interrupts are enabled, rule R241. -/
def State.enable (s : State) : State := { s with ie := true }

/-- Interrupts are disabled, rule R241. -/
def State.disable (s : State) : State := { s with ie := false }

/-- One handler runs, rules R278 to R281: entry, the serviced source's handler, return. -/
def State.service (s : State) : State := ((s.enterHandler s.serviced).handler s.serviced).leaveHandler

/-- SEQ.WAIT, rule R241: enable, hold, exactly one handler, disable, as one indivisible step (R320). `none`: the hold never
ends. -/
def State.wait (s : State) : Option State := s.enable.hold.map fun t => t.service.disable

/-- SEQ.WAIT's answer: a hold that never ends has no next state. -/
def waitThen (s : State) (f : State → State) : Answer :=
  match s.wait with
  | some t => .next (f t)
  | none => .fault .waitNeverEnds

/-- Move the sequencer, rule R44. -/
def State.toPhase (s : State) (p : Phase) : State := { s with seqPhase := p }

/-- The tail of an iteration after the wait, rule R240: dispatch and return to the top. -/
def State.dispatchPhase (s : State) : State := (s.toPhase .dispatch).dispatch.toPhase .render

/-- The top of an iteration when it renders, rule R240. -/
def State.renderAndPresent (s : State) : State := s.fbRender.ddPresent.clearRedraw

/-- SEQ.ITER from the top of an iteration, rule R240. -/
def iterate (s : State) : Answer :=
  if s.wantsRender && !s.digitsDrawable then .refused .digitOutOfTable
  else
    let s1 := if s.wantsRender then s.renderAndPresent else s
    waitThen (s1.fbClear.toPhase .wait) State.dispatchPhase

/-! ### Boot -/

/-- One step of the boot diagnostic, rule R246: one more segment bit of one cell is lit and the surface presented. -/
def State.lightBit (s : State) (x : Nat × Nat) : State :=
  ({ s with fb := memWrite s.fb x.1 (memRead s.fb x.1 ||| (1#8 <<< x.2)) }).ddPresent

/-- The cells and bits in the diagnostic's order, rule R246: row by row, column by column, bit 0 first. -/
def selfTestOrder : List (Nat × Nat) :=
  (List.range 6).flatMap fun r => (List.range 24).flatMap fun c => (List.range 8).map fun b => (fbAddr r c, b)

/-- SEQ.SELFTEST's effect, rule R246: every bit is lit in turn, then the surface is cleared and presented. -/
def State.selfTest (s : State) : State := (selfTestOrder.foldl State.lightBit s).fbClear.ddPresent

/-- The port initialisation, rules R245 and R311: each line that is not in its reset driver state is put there (DEDUCED, log 11). -/
def portInitWrites (drv : LineMap Drive) : List (Line × Drive) :=
  (allLines.map fun l => (l, idleDrive l)).filter fun w => lineGet drv w.1 != w.2

/-- SEQ.BOOT up to the enabling of the sources, rule R245. -/
def State.bootPorts (s : State) : State :=
  { s.drive (portInitWrites s.drv) with srcEn := { timer := true, button := true } }

/-- SEQ.BOOT up to the reading of the self-test button, rule R245. -/
def State.bootChips (s : State) : State := s.bootPorts.rtcInit.ddPresent.ddAllOn

/-- SEQ.BOOT's effect, rule R245: the button's level goes to RES, and if it is low the diagnostic runs. -/
def State.boot (s : State) : State :=
  let t := s.bootChips.pinRead (.btn s.board.selfTestBtn)
  (if t.res = 0 then t.selfTest else t).toPhase .render

/-! ### The operations -/

/-- SEQ.BOOT, rule R245: only in phase BOOT. -/
def execSeqBoot (s : State) : Answer :=
  inMain s
    (match s.seqPhase with
     | .boot => .next s.boot
     | .render | .wait | .dispatch => .refused .outOfPhase)

/-- SEQ.ITER, rule R240: only in phase RENDER. -/
def execSeqIter (s : State) : Answer :=
  inMain s
    (match s.seqPhase with
     | .render => iterate s
     | .boot | .wait | .dispatch => .refused .outOfPhase)

/-- SEQ.WAIT, rule R241. -/
def execSeqWait (s : State) : Answer := inMain s (waitThen s id)

/-- SEQ.DISPATCH, rule R230. -/
def execSeqDispatch (s : State) : Answer := inMain s (.next s.dispatch)

/-- SEQ.SELFTEST, rule R246. -/
def execSeqSelftest (s : State) : Answer := inMain s (.next s.selfTest)

/-- What the sequencer does by itself when no command word is presented, rules R44 and R312: SEQ.BOOT once, then SEQ.ITER for
ever. A state inside an iteration goes on from there (log 1). -/
def sequencerGoes (s : State) : Answer :=
  match s.seqPhase with
  | .boot => execSeqBoot s
  | .render => execSeqIter s
  | .wait => inMain s (waitThen s State.dispatchPhase)
  | .dispatch => inMain s (.next s.dispatchPhase)

end Sys2Proof.Machine
end

