-- ==== Sys2Proof/Machine/Dispatch.lean ====
section
/-! DEFINITION. The meaning of every operation, one arm per row of the opcode table. -/

namespace Sys2Proof.Machine

def exec (i : Instr) (s : State) : Host.Outcome State Fault Refusal :=
  match i with
  | .pinSet line => Sys2Proof.Machine.execPinSet line s
  | .pinClr line => Sys2Proof.Machine.execPinClr line s
  | .pinRead line => Sys2Proof.Machine.execPinRead line s
  | .pinTri line => Sys2Proof.Machine.execPinTri line s
  | .ddStart chip => Sys2Proof.Machine.execDdStart chip s
  | .ddStop chip => Sys2Proof.Machine.execDdStop chip s
  | .ddBit chip bit => Sys2Proof.Machine.execDdBit chip bit s
  | .ddByte chip byte => Sys2Proof.Machine.execDdByte chip byte s
  | .ddFrame chip => Sys2Proof.Machine.execDdFrame chip s
  | .ddPresent => Sys2Proof.Machine.execDdPresent s
  | .ddAllon => Sys2Proof.Machine.execDdAllon s
  | .rtcStart => Sys2Proof.Machine.execRtcStart s
  | .rtcStop => Sys2Proof.Machine.execRtcStop s
  | .rtcTx byte => Sys2Proof.Machine.execRtcTx byte s
  | .rtcRx ack => Sys2Proof.Machine.execRtcRx ack s
  | .rtcBegin dir reg => Sys2Proof.Machine.execRtcBegin dir reg s
  | .rtcGettime => Sys2Proof.Machine.execRtcGettime s
  | .rtcSettime => Sys2Proof.Machine.execRtcSettime s
  | .rtcInit => Sys2Proof.Machine.execRtcInit s
  | .fbClear => Sys2Proof.Machine.execFbClear s
  | .fbBigchar glyph col => Sys2Proof.Machine.execFbBigchar glyph col s
  | .fbRender => Sys2Proof.Machine.execFbRender s
  | .seqBoot => Sys2Proof.Machine.execSeqBoot s
  | .seqIter => Sys2Proof.Machine.execSeqIter s
  | .seqWait => Sys2Proof.Machine.execSeqWait s
  | .seqDispatch => Sys2Proof.Machine.execSeqDispatch s
  | .seqSelftest => Sys2Proof.Machine.execSeqSelftest s
  | .evtPost event => Sys2Proof.Machine.execEvtPost event s
  | .evtTake => Sys2Proof.Machine.execEvtTake s

end Sys2Proof.Machine
end

