-- ==== Sys2Proof/Machine/Step.lean ====
section
/-! DEFINITION. One step: the environment may act, then the first presented command word is decoded and executed, or the
sequencer goes on by itself when none is presented (rules R44, R90, R312, log 1). -/

namespace Sys2Proof.Machine

/-- A presented command word taken up: a reserved one is refused, rule R98. -/
def runWord (w : CmdWord) (s : State) : Host.Outcome State Fault Refusal :=
  match decode w with
  | .ok i => exec i s
  | .error why => .refused (.reservedWord why)

/-- One step. -/
def step (s : State) : Host.Outcome State Fault Refusal :=
  let t := s.arrive
  match t.presented with
  | some w => runWord w t.takeWord
  | none => sequencerGoes t

/-- The state with an operation's word presented as the next one, log 1. -/
def State.withFetchWord (s : State) (nbits w : Nat) : State := s.offer (tableWord nbits w)

end Sys2Proof.Machine
end

