-- ==== Sys2Proof/Safety.lean ====
section
/-! DEFINITION. The words the claims use: what a run of several operations is, what line activity may change, when the buses
are idle, the invariant of the machine, and when two traces are the same waveform (rule R10). -/

namespace Sys2Proof.Machine

/-- Several operations one after the other; the first that stops, stops them (rule R101: a composite operation is such a
sequence). -/
def execAll (is : List Instr) (s : State) : Answer :=
  match is with
  | [] => .next s
  | i :: rest => thenDo (exec i s) (execAll rest)

/-- From `s` to `t` a latch may be set by an enabled source and is never cleared: what time passing does to PEND when no handler
is entered, rules R35 and R275. -/
def PendGrows (s t : State) : Prop :=
  (s.pend.timer = true → t.pend.timer = true) ∧ (s.pend.button = true → t.pend.button = true)
    ∧ (t.pend.timer = true → s.pend.timer = true ∨ s.srcEn.timer = true)
    ∧ (t.pend.button = true → s.pend.button = true ∨ s.srcEn.button = true)

/-- `t` is `s` but for the lines, their record, the chips and the environment: no register of rule R47 has changed, other than
latches that enabled sources have set meanwhile. -/
def LineActivity (s t : State) : Prop :=
  t = { s with
        drv := t.drv, trace := t.trace, pend := t.pend, env := t.env, rtcChip := t.rtcChip, displays := t.displays }
    ∧ PendGrows s t

/-- `t` is `s` but for line writes: nothing has changed but driver states, their record and what the chips made of them. -/
def OnlyDrives (s t : State) : Prop :=
  t = { s with drv := t.drv, trace := t.trace, rtcChip := t.rtcChip, displays := t.displays }

/-- The trace of a sequence of line writes. -/
def wroteAll (ws : List (Line × Drive)) : List LineEvent := ws.map fun w => .wrote w.1 w.2

/-- Every line is in the driver state that reset and the stops of both protocols leave, rules R311, R146, R160. -/
def LinesIdle (s : State) : Prop := ∀ l, lineGet s.drv l = idleDrive l

/-- Every register, flag, latch, cell and line of the block has the value of the reset table, rules R47 and R311. -/
structure HasResetValues (s : State) : Prop where
  time : s.time = { ht := 0, ho := 0, mt := 0, mo := 0 }
  scratch : s.scratch = { h := 0, mt := 0, mo := 0 }
  res : s.res = 0
  redraw : s.redraw = false
  rtcInvalid : s.rtcInvalid = false
  mode : s.mode = .clock
  evt : s.evt = .none
  ie : s.ie = false
  srcEn : s.srcEn = { timer := false, button := false }
  pend : s.pend = { timer := false, button := false }
  inHandler : s.inHandler = false
  seqPhase : s.seqPhase = .boot
  fb : ∀ r c, r < 6 → c < 24 → memRead s.fb (24 * r + c) = 0
  ddData : lineGet s.drv .ddData = .high
  ddClk : ∀ k, lineGet s.drv (.ddClk k) = .high
  rtcScl : lineGet s.drv .rtcScl = .high
  rtcSda : lineGet s.drv .rtcSda = .z
  btn : ∀ b, lineGet s.drv (.btn b) = .z

/-- TIME is its reset value or a valid time, rule R22. -/
def timeOk (t : TimeOfDay) : Prop := validTime t = true ∨ t = { ht := 0, ho := 0, mt := 0, mo := 0 }

/-- The minute digits of SCRATCH are in range, rule R219. -/
def scratchOk (x : Scratch) : Prop := x.mt.toNat ≤ 5 ∧ x.mo.toNat ≤ 9

/-- Every memory is in its canonical form and inside its space: the frame buffer below 144, a display chip's below 16, the RTC
chip's registers below 256. -/
def memoriesOk (s : State) : Prop :=
  memWf s.fb = true ∧ memBelow 144 s.fb = true
    ∧ (∀ k, memWf (nineGet s.displays k).mem = true ∧ memBelow 16 (nineGet s.displays k).mem = true)
    ∧ memWf s.rtcChip.regs = true ∧ memBelow 256 s.rtcChip.regs = true

/-- What every step keeps, between operations: the memories canonical, TIME and SCRATCH in range (R22, R219), the button lines
released (R61), interrupts off and the main context running (R33, R36), the sequencer at boot or at the top of an iteration and
its sources enabled after boot (R44, R34), and valid parameters (R209). -/
structure State.Inv (s : State) : Prop where
  memories : memoriesOk s
  time : timeOk s.time
  scratch : scratchOk s.scratch
  buttons : ∀ b, lineGet s.drv (.btn b) = .z
  masked : s.ie = false
  main : s.inHandler = false
  phase : s.seqPhase = .boot ∨ (s.seqPhase = .render ∧ s.srcEn = { timer := true, button := true })
  board : s.board.valid = true

/-- The levels of the 15 lines when the block drives `drv` and what `held` says is held low from outside, rule R14. -/
def levels (held : LineMap Bool) (drv : LineMap Drive) : LineMap Bool := lineOf (lineLevel held drv)

/-- What is known to be held low after a read that returned `b`: the sample of a released line is the level the environment gives
it, and a driven line says nothing. -/
def heldKnown (held : LineMap Bool) (drv : LineMap Drive) (l : Line) (b : Bool) : LineMap Bool :=
  if lineGet drv l = .z then lineSet held l (!b) else held

/-- The line-level vector after each event of a trace that starts from the driver states `drv`, with `held` held low from outside:
a write sets its line's driver state, a read tells the level of a released line. -/
def levelVectors (held : LineMap Bool) (drv : LineMap Drive) (es : List LineEvent) : List (LineMap Bool) :=
  match es with
  | [] => []
  | .wrote l v :: rest => levels held (lineSet drv l v) :: levelVectors held (lineSet drv l v) rest
  | .sampled l b :: rest => levels (heldKnown held drv l b) drv :: levelVectors (heldKnown held drv l b) drv rest

/-- The sequence of distinct consecutive elements of a list, after `x`. -/
def changesFrom {α : Type} [DecidableEq α] (x : α) (l : List α) : List α :=
  match l with
  | [] => []
  | y :: rest => if x = y then changesFrom x rest else y :: changesFrom y rest

/-- The waveform of a trace, rule R10: its sequence of distinct line-level vectors (log 3). -/
def waveform (held : LineMap Bool) (drv : LineMap Drive) (es : List LineEvent) : List (LineMap Bool) :=
  changesFrom (levels held drv) (levelVectors held drv es)

/-! ### The traces the rules list, written from the rules and not from the meanings -/

/-- The trace of DD.START, rule R131. -/
def startEvents (k : Chip) : List LineEvent := [.wrote .ddData .low, .wrote (.ddClk k) .low]

/-- The trace of DD.STOP, rule R132. -/
def stopEvents (k : Chip) : List LineEvent := [.wrote .ddData .low, .wrote (.ddClk k) .high, .wrote .ddData .high]

/-- The trace of DD.BIT, rule R133. -/
def bitEvents (k : Chip) (b : Bool) : List LineEvent :=
  [.wrote .ddData (if b then .high else .low), .wrote (.ddClk k) .high, .wrote (.ddClk k) .low]

/-- The trace of DD.BYTE, rule R134: bit 0 first. -/
def byteEvents (k : Chip) (v : Byte) : List LineEvent := (List.range 8).flatMap fun i => bitEvents k (v.getLsbD i)

/-- The trace of a frame whose 16 bytes are `cell 0 .. cell 15` (`row_a` then `row_b`), rules R135 and R140: for each bit position
from the least significant, one bit of each byte in order. -/
def frameEvents (b : Config.Board) (k : Chip) (cell : Nat → Byte) : List LineEvent :=
  startEvents k ++ byteEvents k b.cmdAutoInc ++ stopEvents k ++ startEvents k ++ byteEvents k b.cmdAddr0
    ++ ((List.range 8).flatMap fun p => (List.range 16).flatMap fun i => bitEvents k ((cell i).getLsbD p)) ++ stopEvents k

/-- The bytes of chip k's frame out of a frame buffer read by `rd`, rule R135: slot j is the cell CELL_MAP[k][j]. -/
def chipCells (b : Config.Board) (rd : Nat → Byte) (k : Chip) (j : Nat) : Byte :=
  let x := b.cellMap.getD (16 * k.val + j) default
  rd (24 * x.row.val + x.col.val)

/-- The trace of DD.PRESENT for a frame buffer read by `rd`, rule R143. -/
def presentEvents (b : Config.Board) (rd : Nat → Byte) : List LineEvent :=
  (List.finRange 9).flatMap fun k => frameEvents b k (chipCells b rd k)

/-- The trace of DD.ALLON, rule R144. -/
def allOnEvents (b : Config.Board) : List LineEvent :=
  (List.finRange 9).flatMap fun k => startEvents k ++ byteEvents k b.cmdDisplayOn ++ stopEvents k

/-- The trace of RTC.START, rule R161. -/
def rtcStartEvents : List LineEvent := [.wrote .rtcScl .high, .wrote .rtcSda .low, .wrote .rtcScl .low]

/-- The trace of RTC.STOP, rule R162. -/
def rtcStopEvents : List LineEvent := [.wrote .rtcSda .low, .wrote .rtcScl .high, .wrote .rtcSda .z]

/-- The trace of RTC.TX, rule R163: bit 7 first, 0 driven low and 1 released, and the ninth pulse with the line released. -/
def txEvents (v : Byte) : List LineEvent :=
  ([7, 6, 5, 4, 3, 2, 1, 0].flatMap fun i =>
      [.wrote .rtcSda (if v.getLsbD i then .z else .low), .wrote .rtcScl .high, .wrote .rtcScl .low])
    ++ [.wrote .rtcSda .z, .wrote .rtcScl .high, .wrote .rtcScl .low]

/-- The trace of RTC.RX receiving `v`, rule R164. -/
def rxEvents (v : Byte) (ack : Bool) : List LineEvent :=
  [.wrote .rtcSda .z]
    ++ ([7, 6, 5, 4, 3, 2, 1, 0].flatMap fun i =>
      [.wrote .rtcScl .high, .sampled .rtcSda (v.getLsbD i), .wrote .rtcScl .low])
    ++ (if ack then [.wrote .rtcSda .low] else []) ++ [.wrote .rtcScl .high, .wrote .rtcScl .low]

/-- The trace of RTC.BEGIN, rule R165. -/
def beginEvents (b : Config.Board) (dir : Dir) (reg : Byte) : List LineEvent :=
  rtcStartEvents ++ txEvents b.rtcAddrW ++ txEvents reg
    ++ (if dir = .read then rtcStartEvents ++ txEvents b.rtcAddrR else [])

/-- The trace of a write of seconds, minutes and hours, rules R175 and R180. -/
def setEvents (b : Config.Board) (sec min hour : Byte) : List LineEvent :=
  beginEvents b .write b.regSeconds ++ txEvents sec ++ txEvents min ++ txEvents hour ++ rtcStopEvents

/-- The trace of RTC.GETTIME receiving the minutes byte `m` and the hours byte `h`, rule R170. -/
def getEvents (b : Config.Board) (m h : Byte) : List LineEvent :=
  beginEvents b .read b.regMinutes ++ rxEvents m true ++ rxEvents h false ++ rtcStopEvents

/-- The driver states after a trace: the last write to each line, rule R14. -/
def drivenBy (drv : LineMap Drive) (es : List LineEvent) : LineMap Drive :=
  es.foldl (fun d e => match e with | .wrote l v => lineSet d l v | .sampled _ _ => d) drv

/-- The operation completes with exactly these line writes and changes nothing else of the block. -/
def Performs (i : Instr) (s : State) (es : List LineEvent) : Prop :=
  ∃ t, exec i s = .next t ∧ OnlyDrives s t ∧ t.trace = s.trace ++ es ∧ t.drv = drivenBy s.drv es

/-- The three button reads of the button handler, rule R280. -/
def buttonEvents (lv : Button → Bool) : List LineEvent :=
  [.sampled (.btn .set) (lv .set), .sampled (.btn .inc) (lv .inc), .sampled (.btn .dec) (lv .dec)]

/-- The event the button handler posts for the levels read, by BTN_PRIORITY, rules R280 and R291. -/
def postedFor (b : Config.Board) (lv : Button → Bool) : Event :=
  match [b.prio0, b.prio1, b.prio2].find? fun x => !lv x with
  | some .set => .setPressed
  | some .inc => .incPressed
  | some .dec => .decPressed
  | none => .none

/-- The segment bits of cell address `a` among the first `n` that the boot diagnostic has lit, rule R246: eight bits a cell, cell
after cell, bit 0 first. -/
def litBits (n a : Nat) : Byte :=
  if a < n / 8 then 0xFF else if a = n / 8 then BitVec.ofNat 8 (2 ^ (n % 8) - 1) else 0

end Sys2Proof.Machine
end

