-- ==== Sys2Proof/Certificates/Slice0/Obligations.lean ====
section
/-! DEFINITION. The statements about the machine. Each docstring names the rule of spec/ it formalises, or says that it is the
model's own. Where the rule is the spec's own decision (92_eei_decisions.md D<n>) the docstring names it; log 2 lists them. -/

open Sys2Proof Sys2Proof.Machine

/-! ### Encoding -/

/-- R90, R91, R94 (D1): decoding the word of a well-formed operation gives that operation back, with every operand value. -/
def Obligations.EncodeThenDecodeIsIdentity : Prop :=
  ∀ i : Instr, WellFormed i → decode (encode i) = .ok i

/-- R90, R91, R94, R98 (D1, D27): a word that decodes is the word of the operation it decodes to, and that operation is well formed. -/
def Obligations.DecodeThenEncodeIsIdentity : Prop :=
  ∀ (w : CmdWord) (i : Instr), decode w = .ok i → encode i = w ∧ WellFormed i

/-- R98 (D1, D27): an opcode outside the table, a bit the format does not name, or an operand value that R92 refuses makes a word reserved,
and the step refuses it. -/
def Obligations.ReservedWordsAreRefused : Prop :=
  (∀ w : CmdWord, (∀ i : Instr, w.extractLsb' 24 8 ≠ opcodeOf i) → decode w = .error .unknownOpcode)
    ∧ (∀ (w : CmdWord) (i : Instr), w.extractLsb' 24 8 = opcodeOf i → w &&& rowMask i ≠ rowMatch i →
        decode w = .error .reservedBits)
    ∧ (∀ i : Instr, ¬ WellFormed i → decode (encode i) = .error .operandRange)
    ∧ ∀ (s : State) (w : CmdWord) (rest : List CmdWord) (why : DecodeError), s.port = w :: rest → decode w = .error why →
        step s = .refused (.reservedWord why)

/-- R100 (D1): the example words of the spec decode to the operations they stand for. -/
def Obligations.ExampleWordsDecode : Prop :=
  decode 0x04000021 = .ok (.pinTri 0x21) ∧ decode 0x12000103 = .ok (.ddBit 3 true) ∧ decode 0x1300C008 = .ok (.ddByte 8 0xC0)
    ∧ decode 0x14000004 = .ok (.ddFrame 4) ∧ decode 0x22005200 = .ok (.rtcTx 0x52) ∧ decode 0x23000001 = .ok (.rtcRx true)
    ∧ decode 0x24000101 = .ok (.rtcBegin .read 0x01) ∧ decode 0x31000E07 = .ok (.fbBigchar 7 14)
    ∧ decode 0x50000004 = .ok (.evtPost 4) ∧ decode 0x42000000 = .ok .seqWait

/-! ### The step -/

/-- The model's step (log 1): the environment may act, and then a presented word that decodes is executed in that state with the
word taken off the port. -/
def Obligations.StepRunsThePresentedOperation : Prop :=
  ∀ (s : State) (w : CmdWord) (rest : List CmdWord) (i : Instr), s.port = w :: rest → decode w = .ok i →
    step s = exec i { s.arrive with port := rest }

/-- R312, R44 (D29), R240, and log 1: with no word presented the sequencer executes SEQ.BOOT in phase BOOT and SEQ.ITER in phase RENDER. -/
def Obligations.SequencerGoesByItself : Prop :=
  ∀ s : State, s.port = [] →
    (s.seqPhase = .boot → step s = exec .seqBoot s.arrive) ∧ (s.seqPhase = .render → step s = exec .seqIter s.arrive)

/-- R272, R273, R35 (D18), and log 4: what the environment's events do to the block. A chance to act changes PEND, the environment
and the chips only, and takes the script's next batch; a batch is its events one after the other. One event sets PEND.timer exactly if
it is an overflow and the timer source is enabled, and PEND.button exactly if it changes the level of a button line, in either
direction, and the button source is enabled; a latch that is set stays set; the event decides which line is held low. -/
def Obligations.EnvironmentSetsOnlyEnabledLatches : Prop :=
  (∀ s : State,
      s.arrive = { s with
          pend := s.arrive.pend, env := s.arrive.env, rtcChip := s.arrive.rtcChip, displays := s.arrive.displays }
        ∧ PendGrows s s.arrive)
    ∧ (∀ (s : State) (es : List EnvEvent) (rest : List (List EnvEvent)), s.env.script = es :: rest →
        s.arrive = ({ s with env := { s.env with script := rest } }).absorb es)
    ∧ (∀ s : State, s.absorb [] = s)
    ∧ (∀ (s : State) (e : EnvEvent) (es : List EnvEvent), s.absorb (e :: es) = (s.absorb [e]).absorb es)
    ∧ ∀ (s : State) (e : EnvEvent),
      ((s.absorb [e]).pend.timer = true ↔ s.pend.timer = true ∨ (s.srcEn.timer = true ∧ e = .timerOverflow))
        ∧ ((s.absorb [e]).pend.button = true
            ↔ s.pend.button = true ∨ (s.srcEn.button = true ∧ ∃ b, s.level (.btn b) ≠ (s.absorb [e]).level (.btn b)))
        ∧ ∀ l, lineGet (s.absorb [e]).env.held l
            = if e = .holdLow l then true else if e = .letGo l then false else lineGet s.env.held l

/-! ### Reset -/

/-- R47, R310, R311 (D3, D12, D15, D18, D29, D30, D31): every register, flag, latch, cell and line has the value of the reset table;
the tables hold the parameters' contents, and the parameters are a valid set (log 5). R78, R288, R314: the same after a loss of main
power, with the RTC chip's registers kept if the backup power lasted and the halt bit set if it did not (logs 8 and 14). -/
def Obligations.ResetLeavesTheTableValues : Prop :=
  HasResetValues State.reset ∧ State.reset.board = Config.board ∧ Config.board.valid = true
    ∧ ∀ (s : State) (backup : Bool), HasResetValues (s.powerOn backup) ∧ (s.powerOn backup).board = s.board
      ∧ (s.powerOn true).rtcChip.regs = s.rtcChip.regs
      ∧ (memRead (s.powerOn false).rtcChip.regs s.board.regSeconds.toNat).getLsbD 7 = true

/-! ### Contexts and refusals -/

/-- R102 (D33): in handler context every operation but EVT.POST is refused, and EVT.POST is refused in main context. -/
def Obligations.WrongContextIsRefused : Prop :=
  (∀ (i : Instr) (s : State), s.inHandler = true → (∀ e, i ≠ .evtPost e) → exec i s = .refused .wrongContext)
    ∧ ∀ (e : BitVec 3) (s : State), s.inHandler = false → exec (.evtPost e) s = .refused .wrongContext

/-- R125 (D27): PIN.SET and PIN.CLR on a button line are refused. -/
def Obligations.DrivingAButtonLineIsRefused : Prop :=
  ∀ (s : State) (id : BitVec 8), s.inHandler = false → id = 0x30 ∨ id = 0x31 ∨ id = 0x32 →
    exec (.pinSet id) s = .refused .buttonDriven ∧ exec (.pinClr id) s = .refused .buttonDriven

/-- R92, R98, R69 (D27): an operand value outside its legal range is refused, never wrapped or clipped. -/
def Obligations.IllegalOperandsAreRefused : Prop :=
  (∀ (s : State) (id : BitVec 8), s.inHandler = false → lineOfId id = none →
      exec (.pinSet id) s = .refused .unknownLine ∧ exec (.pinClr id) s = .refused .unknownLine
        ∧ exec (.pinRead id) s = .refused .unknownLine ∧ exec (.pinTri id) s = .refused .unknownLine)
    ∧ (∀ (s : State) (c : BitVec 4) (b : Bool) (v : Byte), s.inHandler = false → 8 < c.toNat →
      exec (.ddStart c) s = .refused .chipOutOfRange ∧ exec (.ddStop c) s = .refused .chipOutOfRange
        ∧ exec (.ddBit c b) s = .refused .chipOutOfRange ∧ exec (.ddByte c v) s = .refused .chipOutOfRange
        ∧ exec (.ddFrame c) s = .refused .chipOutOfRange)
    ∧ (∀ (s : State) (g : BitVec 4) (c : BitVec 5), s.inHandler = false → 9 < g.toNat →
      exec (.fbBigchar g c) s = .refused .glyphOutOfRange)
    ∧ (∀ (s : State) (g : BitVec 4) (c : BitVec 5), s.inHandler = false → g.toNat ≤ 9 → 19 < c.toNat →
      exec (.fbBigchar g c) s = .refused .columnOutOfRange)
    ∧ ∀ (s : State) (e : BitVec 3), s.inHandler = true → 4 < e.toNat → exec (.evtPost e) s = .refused .eventOutOfRange

/-- R95 (D1): which lines the ids name; a value that is none of the 15 ids names no line. -/
def Obligations.LineIdsAreTheTable : Prop :=
  (∀ l : Line, lineOfId (lineId l) = some l) ∧ (∀ (id : BitVec 8) (l : Line), lineOfId id = some l → lineId l = id)
    ∧ lineId .ddData = 0x00 ∧ (∀ k : Chip, (lineId (.ddClk k)).toNat = 0x10 + k.val) ∧ lineId .rtcScl = 0x20
    ∧ lineId .rtcSda = 0x21 ∧ lineId (.btn .set) = 0x30 ∧ lineId (.btn .inc) = 0x31 ∧ lineId (.btn .dec) = 0x32

/-- R240, R245: SEQ.ITER outside phase RENDER and SEQ.BOOT outside phase BOOT are refused. -/
def Obligations.OutOfPhaseIsRefused : Prop :=
  ∀ s : State, s.inHandler = false →
    (s.seqPhase ≠ .render → exec .seqIter s = .refused .outOfPhase)
      ∧ (s.seqPhase ≠ .boot → exec .seqBoot s = .refused .outOfPhase)

/-! ### Pin primitives -/

/-- R120, R121, R123, R124: PIN.SET, PIN.CLR and PIN.TRI complete, put their line in driver state 1, 0, Z, append that one write to
the trace, and leave every other line and every register as it was. PIN.TRI takes any line, the others any but a button's. -/
def Obligations.PinWritesDriveOneLine : Prop :=
  ∀ (s : State) (id : BitVec 8) (l : Line), s.inHandler = false → lineOfId id = some l →
    ((∀ b, l ≠ .btn b) → ∃ t, exec (.pinSet id) s = .next t ∧ OnlyDrives s t ∧ t.trace = s.trace ++ [.wrote l .high]
        ∧ ∀ l', lineGet t.drv l' = if l' = l then .high else lineGet s.drv l')
      ∧ ((∀ b, l ≠ .btn b) → ∃ t, exec (.pinClr id) s = .next t ∧ OnlyDrives s t ∧ t.trace = s.trace ++ [.wrote l .low]
        ∧ ∀ l', lineGet t.drv l' = if l' = l then .low else lineGet s.drv l')
      ∧ ∃ t, exec (.pinTri id) s = .next t ∧ OnlyDrives s t ∧ t.trace = s.trace ++ [.wrote l .z]
        ∧ ∀ l', lineGet t.drv l' = if l' = l then .z else lineGet s.drv l'

/-- R122, R14 (D9), and log 4: PIN.READ completes on any line; RES is 1 for a high level and 0 for a low one; the read is appended to the trace; a
driven line reads as driven and nothing else changes; a released line reads 1 unless something holds it low. -/
def Obligations.PinReadReturnsTheLevel : Prop :=
  ∀ (s : State) (id : BitVec 8) (l : Line), s.inHandler = false → lineOfId id = some l →
    ∃ t b, exec (.pinRead id) s = .next t
      ∧ t = { s with
            res := if b then 1 else 0, trace := s.trace ++ [.sampled l b],
            pend := t.pend, env := t.env, rtcChip := t.rtcChip, displays := t.displays }
      ∧ PendGrows s t
      ∧ (lineGet s.drv l = .high →
          b = true ∧ t.pend = s.pend ∧ t.env = s.env ∧ t.rtcChip = s.rtcChip ∧ t.displays = s.displays)
      ∧ (lineGet s.drv l = .low →
          b = false ∧ t.pend = s.pend ∧ t.env = s.env ∧ t.rtcChip = s.rtcChip ∧ t.displays = s.displays)
      ∧ (lineGet s.drv l = .z →
          (b = false ↔ lineGet t.env.held l = true ∨ (l = .rtcSda ∧ t.rtcChip.answers = true ∧ t.rtcChip.low = true)))

/-! ### Display driver -/

/-- R131, R132, R133 (D8), R134: DD.START, DD.STOP, DD.BIT and DD.BYTE complete with exactly the writes their rules list, whatever the
lines were, and change no register. -/
def Obligations.DisplayPrimitivesWriteTheirTraces : Prop :=
  ∀ (s : State) (c : BitVec 4) (k : Chip), s.inHandler = false → c.toNat = k.val →
    Performs (.ddStart c) s (startEvents k) ∧ Performs (.ddStop c) s (stopEvents k)
      ∧ (∀ b : Bool, Performs (.ddBit c b) s (bitEvents k b)) ∧ ∀ v : Byte, Performs (.ddByte c v) s (byteEvents k v)

/-- R135 (D4, D6), R140: DD.FRAME completes with the two brackets and the bit-planes of the chip's cells, 442 writes in all, all on DD_DATA
and the chip's clock, and leaves both lines idle; FB and every register are unchanged. -/
def Obligations.FrameSendsTheBitPlanes : Prop :=
  ∀ (s : State) (c : BitVec 4) (k : Chip), s.inHandler = false → c.toNat = k.val →
    Performs (.ddFrame c) s (frameEvents s.board k (chipCells s.board (memRead s.fb) k))
      ∧ (frameEvents s.board k (chipCells s.board (memRead s.fb) k)).length = 442
      ∧ (∀ e ∈ frameEvents s.board k (chipCells s.board (memRead s.fb) k),
          ∃ v, e = .wrote .ddData v ∨ e = .wrote (.ddClk k) v)
      ∧ ∀ t, exec (.ddFrame c) s = .next t → lineGet t.drv .ddData = .high ∧ lineGet t.drv (.ddClk k) = .high

/-- R143 (D6): DD.PRESENT completes with nine frames in increasing chip order, 3978 writes; FB and every register are unchanged. -/
def Obligations.PresentSendsNineFrames : Prop :=
  ∀ s : State, s.inHandler = false →
    Performs .ddPresent s (presentEvents s.board (memRead s.fb)) ∧ (presentEvents s.board (memRead s.fb)).length = 3978

/-- R72 (D6): with valid parameters CELL_MAP is a bijection, each of the 144 cells is the cell of exactly one chip and slot. -/
def Obligations.CellMapIsABijection : Prop :=
  ∀ b : Config.Board, b.valid = true → ∀ x : Cell,
    ∃ k : Chip, ∃ j : Nat, j < 16 ∧ mapCell b k j = x ∧ ∀ (k' : Chip) (j' : Nat), j' < 16 → mapCell b k' j' = x → k' = k ∧ j' = j

/-- R144 (D4, D7): DD.ALLON completes with one bracket of the display-on command per chip in increasing order, 261 writes. -/
def Obligations.AllOnCommandsEveryChip : Prop :=
  ∀ s : State, s.inHandler = false → Performs .ddAllon s (allOnEvents s.board) ∧ (allOnEvents s.board).length = 261

/-- R140: the bit sequence of a frame. -/
def Obligations.PlanesTakeOneBitOfEachByte : Prop :=
  ∀ rowA rowB : List Byte, rowA.length = 8 → rowB.length = 8 →
    (planes rowA rowB).length = 128
      ∧ ∀ p i, p < 8 → i < 8 →
        (planes rowA rowB)[16 * p + i]? = rowA[i]?.map (fun v => v.getLsbD p)
          ∧ (planes rowA rowB)[16 * p + 8 + i]? = rowB[i]?.map (fun v => v.getLsbD p)

/-- R141: `planes` is a bijection between pairs of 8-byte rows and 128-bit sequences, with the inverse the rule gives, bit by bit. -/
def Obligations.PlanesIsABijection : Prop :=
  (∀ rowA rowB : List Byte, rowA.length = 8 → rowB.length = 8 → unplanes (planes rowA rowB) = rowA ++ rowB)
    ∧ ∀ bs : List Bool, bs.length = 128 →
      planes ((unplanes bs).take 8) ((unplanes bs).drop 8) = bs ∧ (unplanes bs).length = 16
        ∧ ∀ p i, p < 8 → i < 8 →
          (unplanes bs)[i]?.map (fun v => v.getLsbD p) = bs[16 * p + i]?
            ∧ (unplanes bs)[8 + i]?.map (fun v => v.getLsbD p) = bs[16 * p + 8 + i]?

/-- R142: the 128 bits of a frame are the 16 wire bytes sent bit 0 first, with the same trace. -/
def Obligations.FrameBitsAreTheWireBytes : Prop :=
  ∀ (k : Chip) (rowA rowB : List Byte), rowA.length = 8 → rowB.length = 8 →
    bitsWrites k (planes rowA rowB) = (wireBytes rowA rowB).flatMap (byteWrites k)
      ∧ ∀ p i, p < 8 → i < 8 →
        (wireBytes rowA rowB)[2 * p]?.map (fun v => v.getLsbD i) = rowA[i]?.map (fun v => v.getLsbD p)
          ∧ (wireBytes rowA rowB)[2 * p + 1]?.map (fun v => v.getLsbD i) = rowB[i]?.map (fun v => v.getLsbD p)

/-- R65, R142, and log 7 (the chip is D38's test fixture): after DD.FRAME the reference display chip holds the 16 wire bytes of its frame, whatever it held and wherever its receiver
stood; a chip whose clock the block drives and which is not addressed keeps its memory (a released clock may do anything, R123,
log 15). -/
def Obligations.FrameFillsTheChipsMemory : Prop :=
  ∀ (s t : State) (c : BitVec 4) (k : Chip), s.inHandler = false → c.toNat = k.val →
    memWf (nineGet s.displays k).mem = true → exec (.ddFrame c) s = .next t →
      (∀ p i, p < 8 → i < 8 →
        (memRead (nineGet t.displays k).mem (2 * p)).getLsbD i = (chipCells s.board (memRead s.fb) k i).getLsbD p
          ∧ (memRead (nineGet t.displays k).mem (2 * p + 1)).getLsbD i = (chipCells s.board (memRead s.fb) k (8 + i)).getLsbD p)
      ∧ ∀ j : Chip, j ≠ k → lineGet s.drv (.ddClk j) ≠ .z → (nineGet t.displays j).mem = (nineGet s.displays j).mem

/-- R101: the composite operations of the DD, RTC and FB families and SEQ.DISPATCH are the sequences of smaller operations the table
lists, ten of its rows. SEQ.DISPATCH is EVT.TAKE and the transition of the event taken but for RES, which by R230 and R28 it leaves
alone where the transition receives no byte (log 16). RTC.INIT is `InitStartsAHaltedClock`; SEQ.ITER and SEQ.BOOT are
`IterationIsTheRulesSequence` and `BootFromIdleLinesIsItsSequence`. -/
def Obligations.CompositesAreTheirExpansions : Prop :=
  ∀ s : State, s.inHandler = false →
    (∀ (c : BitVec 4) (k : Chip), c.toNat = k.val →
        (∀ b : Bool, exec (.ddBit c b) s
            = execAll [if b then .pinSet 0x00 else .pinClr 0x00, .pinSet (lineId (.ddClk k)), .pinClr (lineId (.ddClk k))] s)
          ∧ (∀ v : Byte, exec (.ddByte c v) s = execAll ((List.range 8).map fun i => .ddBit c (v.getLsbD i)) s)
          ∧ exec (.ddFrame c) s
            = execAll ([.ddStart c, .ddByte c s.board.cmdAutoInc, .ddStop c, .ddStart c, .ddByte c s.board.cmdAddr0]
                ++ (planes (frameRow s.board s.fb k 0) (frameRow s.board s.fb k 8)).map (.ddBit c) ++ [.ddStop c]) s)
      ∧ exec .ddPresent s = execAll ((List.range 9).map fun n => .ddFrame (BitVec.ofNat 4 n)) s
      ∧ exec .ddAllon s
        = execAll ((List.range 9).flatMap fun n =>
            [.ddStart (BitVec.ofNat 4 n), .ddByte (BitVec.ofNat 4 n) s.board.cmdDisplayOn, .ddStop (BitVec.ofNat 4 n)]) s
      ∧ (∀ reg : Byte, exec (.rtcBegin .write reg) s = execAll [.rtcStart, .rtcTx s.board.rtcAddrW, .rtcTx reg] s)
      ∧ (∀ reg : Byte, exec (.rtcBegin .read reg) s
          = execAll [.rtcStart, .rtcTx s.board.rtcAddrW, .rtcTx reg, .rtcStart, .rtcTx s.board.rtcAddrR] s)
      ∧ exec .rtcSettime s
        = execAll [.rtcBegin .write s.board.regSeconds, .rtcTx 0x00, .rtcTx (encMinutes s.scratch.mt s.scratch.mo),
            .rtcTx (encHours s.scratch.h), .rtcStop] s
      ∧ (∃ a b c, execAll [.rtcBegin .read s.board.regMinutes, .rtcRx true] s = .next a ∧ exec (.rtcRx false) a = .next b
          ∧ exec .rtcStop b = .next c ∧ exec .rtcGettime s = .next (c.settle (decodeTime a.res b.res)))
      ∧ (s.mode = .clock → s.time.ho.toNat ≤ 9 → s.time.mo.toNat ≤ 9 →
          ∃ a b c d, (if s.time.ht = 1 then exec (.fbBigchar 1 0) s = .next a else a = s)
            ∧ exec (.fbBigchar s.time.ho 5) a = .next b
            ∧ exec (.fbBigchar (s.time.mt.setWidth 4) (BitVec.ofNat 5 (10 + s.board.colonWidth.val)))
                { b with
                  fb := paint s.board.colonCell1 s.board.colonPattern1 (paint s.board.colonCell0 s.board.colonPattern0 b.fb) }
                = .next c
            ∧ exec (.fbBigchar s.time.mo (BitVec.ofNat 5 (15 + s.board.colonWidth.val))) c = .next d
            ∧ exec .fbRender s = .next d)
      ∧ ∃ a t, exec .evtTake s = .next a ∧ exec .seqDispatch s = .next t ∧ a.onEvent s.evt = { t with res := (a.onEvent s.evt).res }
        ∧ (s.evt = .timeTick ∨ (s.evt = .setPressed ∧ s.mode = .setMinutesOnes) → a.onEvent s.evt = t)

/-! ### RTC engine -/

/-- R161, R162, R163 (D10), R165 (D5): RTC.START, RTC.STOP, RTC.TX and RTC.BEGIN complete with exactly the writes their rules list, read no
line, change no register, and leave the clock and data lines as their rules say. -/
def Obligations.RtcWritesHaveTheirTraces : Prop :=
  ∀ s : State, s.inHandler = false →
    Performs .rtcStart s rtcStartEvents ∧ Performs .rtcStop s rtcStopEvents
      ∧ (∀ v : Byte, Performs (.rtcTx v) s (txEvents v) ∧ (txEvents v).length = 27)
      ∧ (∀ (dir : Dir) (reg : Byte), Performs (.rtcBegin dir reg) s (beginEvents s.board dir reg)
          ∧ (beginEvents s.board dir reg).length = if dir = .read then 87 else 57)
      ∧ ∀ (t : State) (v : Byte), exec (.rtcTx v) s = .next t → lineGet t.drv .rtcScl = .low ∧ lineGet t.drv .rtcSda = .z

/-- R164 (D10): RTC.RX completes; there is a byte whose bits, most significant first, are the levels sampled while the clock is high; it is
left in RES; the trace is the rule's; no other register changes. After an ack the data line stays driven low, after a nack
released. -/
def Obligations.RxLeavesTheSampledByte : Prop :=
  ∀ (s : State) (ack : Bool), s.inHandler = false →
    ∃ t, exec (.rtcRx ack) s = .next t ∧ LineActivity { s with res := t.res } t ∧ t.trace = s.trace ++ rxEvents t.res ack
      ∧ (rxEvents t.res ack).length = (if ack then 28 else 27)
      ∧ ∀ l, lineGet t.drv l
          = if l = .rtcScl then .low else if l = .rtcSda then (if ack then .low else .z) else lineGet s.drv l

/-- R164, R14, and log 4: the byte received is the one the peer sends: where the RTC chip does not answer, a peer that before each sample holds the line low for
a 0 and lets it go for a 1 is received as sent. -/
def Obligations.RxReceivesWhatThePeerSends : Prop :=
  ∀ (s t : State) (ack : Bool) (v : Byte) (rest : List (List EnvEvent)), s.inHandler = false →
    s.rtcChip.answers = false →
    s.env.script
      = ([7, 6, 5, 4, 3, 2, 1, 0].map fun i => [if v.getLsbD i then EnvEvent.letGo .rtcSda else EnvEvent.holdLow .rtcSda]) ++ rest →
    exec (.rtcRx ack) s = .next t → t.res = v ∧ t.env.script = rest

/-- R170, R171 (D11), R172 (D16, D36), R185 (D12): RTC.GETTIME completes; with the minutes byte m and the hours byte h it received, a valid decoded value
becomes TIME and REDRAW says whether it differs from the old one; an invalid one leaves TIME, clears REDRAW and sets RTC_INVALID;
RES holds h; the trace is the rule's 145 events; nothing else changes. -/
def Obligations.GetTimeDecodesOrRejects : Prop :=
  ∀ s : State, s.inHandler = false →
    ∃ t m h, exec .rtcGettime s = .next t ∧ t.trace = s.trace ++ getEvents s.board m h ∧ (getEvents s.board m h).length = 145
      ∧ LineActivity { s with res := h, time := t.time, redraw := t.redraw, rtcInvalid := t.rtcInvalid } t
      ∧ t.drv = drivenBy s.drv (getEvents s.board m h)
      ∧ (let new : TimeOfDay := ⟨h.extractLsb' 4 1, h.extractLsb' 0 4, m.extractLsb' 4 3, m.extractLsb' 0 4⟩
         let hour := 10 * new.ht.toNat + new.ho.toNat
         if new.mt.toNat ≤ 5 ∧ new.mo.toNat ≤ 9 ∧ new.ho.toNat ≤ 9 ∧ 1 ≤ hour ∧ hour ≤ 12 then
           t.time = new ∧ t.redraw = decide (new ≠ s.time) ∧ t.rtcInvalid = s.rtcInvalid
         else t.time = s.time ∧ t.redraw = false ∧ t.rtcInvalid = true)

/-- R175, R176 (D13): RTC.SETTIME completes with the write of seconds 0, the minutes byte and the hours byte packed as the rule says, 141
writes, and changes no register. -/
def Obligations.SetTimeWritesThePackedBytes : Prop :=
  ∀ s : State, s.inHandler = false →
    ∃ m h : Byte, m.toNat = 16 * s.scratch.mt.toNat + s.scratch.mo.toNat
      ∧ h.toNat = 64 + 16 * (s.scratch.h.toNat / 10) + s.scratch.h.toNat % 10
      ∧ Performs .rtcSettime s (setEvents s.board 0x00 m h) ∧ (setEvents s.board 0x00 m h).length = 141

/-- R186 (D11, D13): decoding what is packed for an hour of 1..12 and minute digits in range gives the same four digits, and they are valid. -/
def Obligations.PackedTimeDecodesBack : Prop :=
  ∀ (h : BitVec 4) (mt : BitVec 3) (mo : BitVec 4), 1 ≤ h.toNat → h.toNat ≤ 12 → mt.toNat ≤ 5 → mo.toNat ≤ 9 →
    (decodeTime (encMinutes mt mo) (encHours h)).ht.toNat = h.toNat / 10
      ∧ (decodeTime (encMinutes mt mo) (encHours h)).ho.toNat = h.toNat % 10
      ∧ (decodeTime (encMinutes mt mo) (encHours h)).mt = mt ∧ (decodeTime (encMinutes mt mo) (encHours h)).mo = mo
      ∧ validTime (decodeTime (encMinutes mt mo) (encHours h)) = true

/-- R180 (D14): RTC.INIT completes: it reads the seconds register; if bit 7 of what it read is set it writes 0x00, 0x00, 0x52 from the
seconds register on; then it does RTC.GETTIME. -/
def Obligations.InitStartsAHaltedClock : Prop :=
  ∀ s : State, s.inHandler = false →
    ∃ a t, execAll [.rtcBegin .read s.board.regSeconds, .rtcRx false, .rtcStop] s = .next a ∧ exec .rtcInit s = .next t
      ∧ (if a.res.getLsbD 7 then
          execAll [.rtcBegin .write s.board.regSeconds, .rtcTx 0x00, .rtcTx 0x00, .rtcTx 0x52, .rtcStop, .rtcGettime] a = .next t
        else exec .rtcGettime a = .next t)

/-- R186, R66, and the model's own choice of the chip (log 8): on the bus, with the RTC chip answering at two different address bytes
and not holding the line, idle lines, nothing else holding them and a quiet environment, RTC.SETTIME of an edited time followed by
RTC.GETTIME leaves the same four digits in TIME and rejects nothing. -/
def Obligations.TimeWrittenIsTimeReadBack : Prop :=
  ∀ (s a t : State) (rest : List (List EnvEvent)), s.inHandler = false → s.board.valid = true →
    s.board.rtcAddrW ≠ s.board.rtcAddrR → s.rtcChip.answers = true → memWf s.rtcChip.regs = true →
    lineGet s.drv .rtcScl = .high → lineGet s.drv .rtcSda = .z → s.rtcChip.low = false →
    lineGet s.env.held .rtcSda = false → s.env.script = List.replicate 16 [] ++ rest →
    1 ≤ s.scratch.h.toNat → s.scratch.h.toNat ≤ 12 → s.scratch.mt.toNat ≤ 5 → s.scratch.mo.toNat ≤ 9 →
    exec .rtcSettime s = .next a → exec .rtcGettime a = .next t →
      t.time.ht.toNat = s.scratch.h.toNat / 10 ∧ t.time.ho.toNat = s.scratch.h.toNat % 10 ∧ t.time.mt = s.scratch.mt
        ∧ t.time.mo = s.scratch.mo ∧ t.rtcInvalid = s.rtcInvalid

/-! ### Frame buffer and renderer -/

/-- R200: FB.CLEAR completes with every cell 0 and changes nothing else. -/
def Obligations.ClearZeroesTheGrid : Prop :=
  ∀ s : State, s.inHandler = false →
    ∃ t, exec .fbClear s = .next t ∧ t = { s with fb := t.fb } ∧ ∀ r c, r < 6 → c < 24 → memRead t.fb (24 * r + c) = 0

/-- R201 (D35): FB.BIGCHAR completes for a glyph of 0..9 and a column of 0..19: the 30 cells hold the glyph's bytes, bit 7 zero, whatever
they held, and every other cell and register is unchanged. -/
def Obligations.BigCharCopiesTheGlyph : Prop :=
  ∀ (s : State) (g : BitVec 4) (col : BitVec 5), s.inHandler = false → memWf s.fb = true → g.toNat ≤ 9 → col.toNat ≤ 19 →
    ∃ t, exec (.fbBigchar g col) s = .next t ∧ t = { s with fb := t.fb }
      ∧ ∀ r c, r < 6 → c < 24 →
        memRead t.fb (24 * r + c)
          = if col.toNat ≤ c ∧ c ≤ col.toNat + 4 then
              (s.board.font.getD (30 * g.toNat + 5 * r + (c - col.toNat)) 0).setWidth 8
            else memRead s.fb (24 * r + c)

/-- R205 (D35), R208, R210 (D22), R211, R221: FB.RENDER in mode Clock completes when the digits are in range and draws the face: the hour tens
only if it is 1, the colon's two cells, the three other digits each with the glyph of its value; every other cell keeps its
value. -/
def Obligations.RenderClockDrawsTheFace : Prop :=
  ∀ s : State, s.inHandler = false → memWf s.fb = true → s.board.valid = true → s.mode = .clock →
    s.time.ho.toNat ≤ 9 → s.time.mo.toNat ≤ 9 →
    ∃ t, exec .fbRender s = .next t ∧ t = { s with fb := t.fb }
      ∧ ∀ (r : Fin 6) (c : Fin 24),
        let w := s.board.colonWidth.val
        let glyph (g col : Nat) : Byte := (s.board.font.getD (30 * g + 5 * r.val + (c.val - col)) 0).setWidth 8
        memRead t.fb (24 * r.val + c.val)
          = if c.val < 5 then (if s.time.ht = 1 then glyph 1 0 else memRead s.fb (24 * r.val + c.val))
            else if c.val < 10 then glyph s.time.ho.toNat 5
            else if c.val < 10 + w then
              (if (⟨r, c⟩ : Cell) = s.board.colonCell0 then s.board.colonPattern0
               else if (⟨r, c⟩ : Cell) = s.board.colonCell1 then s.board.colonPattern1
               else memRead s.fb (24 * r.val + c.val))
            else if c.val < 15 + w then glyph s.time.mt.toNat (10 + w)
            else if c.val < 20 + w then glyph s.time.mo.toNat (15 + w)
            else memRead s.fb (24 * r.val + c.val)

/-- R205, R215 to R220 (D23): FB.RENDER in a setting mode completes when the minute ones digit is in range and paints the label, the hour
(its tens only from 10 on, its ones with bit 7), the minutes, and bit 7 of the mode's underline cell; every other cell keeps its
value. -/
def Obligations.RenderSetDrawsTheScreen : Prop :=
  ∀ (s : State) (ul : Cell), s.inHandler = false → memWf s.fb = true → s.board.valid = true → s.scratch.mo.toNat ≤ 9 →
    (s.mode = .setHours ∧ ul = s.board.layout.ulHours ∨ s.mode = .setMinutesTens ∧ ul = s.board.layout.ulTens
      ∨ s.mode = .setMinutesOnes ∧ ul = s.board.layout.ulOnes) →
    ∃ t, exec .fbRender s = .next t ∧ t = { s with fb := t.fb }
      ∧ ∀ x : Cell,
        let old := memRead s.fb (24 * x.row.val + x.col.val)
        let digit (d : Nat) : Byte := (s.board.digit7.getD d 0).setWidth 8
        let drawn : Byte :=
          if x = s.board.layout.label0 then s.board.labelS.setWidth 8
          else if x = s.board.layout.label1 then s.board.labelE.setWidth 8
          else if x = s.board.layout.label2 then s.board.labelT.setWidth 8
          else if x = s.board.layout.ht then (if 10 ≤ s.scratch.h.toNat then digit (s.scratch.h.toNat / 10) else old)
          else if x = s.board.layout.ho then digit (s.scratch.h.toNat % 10) ||| 0x80
          else if x = s.board.layout.mt then digit s.scratch.mt.toNat
          else if x = s.board.layout.mo then digit s.scratch.mo.toNat
          else old
        memRead t.fb (24 * x.row.val + x.col.val) = if x = ul then drawn ||| 0x80 else drawn

/-! ### Mailbox, dispatch, wait -/

/-- R243: EVT.POST in handler context completes and overwrites the mailbox, whatever it held; a code above 4 and the main context
are refused. R242: EVT.TAKE in main context completes, leaves the event's code in RES and the mailbox empty; a handler may not
execute it. Both with the rules' encodings, and the codes of R96. -/
def Obligations.MailboxIsLastWriteWins : Prop :=
  (∀ (s : State) (c : BitVec 3) (e : Event), s.inHandler = true → eventOf c = some e → exec (.evtPost c) s = .next { s with evt := e })
    ∧ (∀ (s : State) (c : BitVec 3), s.inHandler = true → 4 < c.toNat → exec (.evtPost c) s = .refused .eventOutOfRange)
    ∧ (∀ (s : State) (c : BitVec 3), s.inHandler = false → exec (.evtPost c) s = .refused .wrongContext)
    ∧ (∀ s : State, s.inHandler = false →
      exec .evtTake s = .next { s with
        res := (match s.evt with | .none => 0 | .setPressed => 1 | .incPressed => 2 | .decPressed => 3 | .timeTick => 4)
        evt := .none })
    ∧ (∀ s : State, s.inHandler = true → exec .evtTake s = .refused .wrongContext)
    ∧ (∀ c : BitVec 3, c.toNat ≤ 4 → decode ((0x50 : BitVec 8) ++ (0 : BitVec 21) ++ c) = .ok (.evtPost c))
    ∧ (eventOf 0 = some .none ∧ eventOf 1 = some .setPressed ∧ eventOf 2 = some .incPressed ∧ eventOf 3 = some .decPressed
      ∧ eventOf 4 = some .timeTick)
    ∧ decode 0x51000000 = .ok .evtTake

/-- R230, R231, R232 (D37), R233, and log 16 (RES): SetPressed moves MODE round the cycle; leaving Clock copies TIME into SCRATCH; leaving SetMinutesOnes does
RTC.SETTIME, RTC.GETTIME and forces REDRAW. (A combined hour that does not fit the 4 bits of SCRATCH.h is the model's free value,
log 12, and the hour is then not stated.) -/
def Obligations.SetPressedCyclesTheModes : Prop :=
  ∀ s : State, s.inHandler = false → s.evt = .setPressed →
    (s.mode = .clock → ∃ h : BitVec 4,
        exec .seqDispatch s
            = .next { s with mode := .setHours, evt := .none, scratch := { h := h, mt := s.time.mt, mo := s.time.mo } }
          ∧ (10 * s.time.ht.toNat + s.time.ho.toNat < 16 → h.toNat = 10 * s.time.ht.toNat + s.time.ho.toNat))
      ∧ (s.mode = .setHours → exec .seqDispatch s = .next { s with mode := .setMinutesTens, evt := .none })
      ∧ (s.mode = .setMinutesTens → exec .seqDispatch s = .next { s with mode := .setMinutesOnes, evt := .none })
      ∧ (s.mode = .setMinutesOnes → ∃ a, execAll [.rtcSettime, .rtcGettime] s = .next a
          ∧ exec .seqDispatch s = .next { a with redraw := true, mode := .clock, evt := .none })

/-- R230, R234, R235, R250 (D28), and log 16 (RES): IncPressed and DecPressed do nothing in mode Clock; in a setting mode they step the field it edits, wrapping as
the table says, and touch nothing else. -/
def Obligations.IncAndDecEditTheField : Prop :=
  ∀ s : State, s.inHandler = false →
    (s.evt = .incPressed → ∃ x : Scratch, exec .seqDispatch s = .next { s with scratch := x, evt := .none }
      ∧ x.h.toNat = (if s.mode = .setHours then (if 12 ≤ s.scratch.h.toNat then 1 else s.scratch.h.toNat + 1) else s.scratch.h.toNat)
      ∧ x.mt.toNat
          = (if s.mode = .setMinutesTens then (if 5 ≤ s.scratch.mt.toNat then 0 else s.scratch.mt.toNat + 1) else s.scratch.mt.toNat)
      ∧ x.mo.toNat
          = (if s.mode = .setMinutesOnes then (if 9 ≤ s.scratch.mo.toNat then 0 else s.scratch.mo.toNat + 1) else s.scratch.mo.toNat))
    ∧ (s.evt = .decPressed → ∃ x : Scratch, exec .seqDispatch s = .next { s with scratch := x, evt := .none }
      ∧ x.h.toNat = (if s.mode = .setHours then (if s.scratch.h.toNat ≤ 1 then 12 else s.scratch.h.toNat - 1) else s.scratch.h.toNat)
      ∧ x.mt.toNat
          = (if s.mode = .setMinutesTens then (if s.scratch.mt.toNat = 0 then 5 else s.scratch.mt.toNat - 1) else s.scratch.mt.toNat)
      ∧ x.mo.toNat
          = (if s.mode = .setMinutesOnes then (if s.scratch.mo.toNat = 0 then 9 else s.scratch.mo.toNat - 1) else s.scratch.mo.toNat))

/-- R230, R236 (D17), R237, R253, and log 16 (RES): a tick does RTC.GETTIME in every mode and leaves SCRATCH and MODE; with no event nothing happens; either way
the mailbox is empty afterwards. -/
def Obligations.TickReadsTheTimeInEveryMode : Prop :=
  ∀ s : State, s.inHandler = false →
    (s.evt = .timeTick → ∃ a, exec .rtcGettime s = .next a ∧ exec .seqDispatch s = .next { a with evt := .none }
      ∧ a.scratch = s.scratch ∧ a.mode = s.mode)
    ∧ (s.evt = .none → exec .seqDispatch s = .next s)

/-- R250 (D28): on the ranges the source names each decrement is the inverse of its increment. -/
def Obligations.DecrementsInvertIncrements : Prop :=
  (∀ h : BitVec 4, 1 ≤ h.toNat → h.toNat ≤ 12 → decH (incH h) = h ∧ incH (decH h) = h)
    ∧ (∀ x : BitVec 3, x.toNat ≤ 5 → decMt (incMt x) = x ∧ incMt (decMt x) = x)
    ∧ ∀ x : BitVec 4, x.toNat ≤ 9 → decMo (incMo x) = x ∧ incMo (decMo x) = x

/-- R241, R279: with only the timer pending SEQ.WAIT services it: the hold is empty, the latch is cleared, TimeTick is posted, no
line is read, interrupts are off again. -/
def Obligations.WaitServicesThePendingTimer : Prop :=
  ∀ s : State, s.inHandler = false → s.pend = { timer := true, button := false } →
    exec .seqWait s = .next { s with pend := { timer := false, button := false }, evt := .timeTick, ie := false }

/-- R241, R280, R291 (D20): with only the button source pending SEQ.WAIT services it: the three button lines are read once each in
order, and the event of the first by BTN_PRIORITY that read low is posted, or None. R14: a line the block drives reads as driven, and
with released lines each read returns the level the environment gives the line at that read, 0 exactly if it then holds it low (the
environment's three batches are log 4's). -/
def Obligations.WaitServicesThePendingButton : Prop :=
  ∀ s : State, s.inHandler = false → s.pend = { timer := false, button := true } →
    ∃ t lv, exec .seqWait s = .next t ∧ t.trace = s.trace ++ buttonEvents lv ∧ t.evt = postedFor s.board lv
      ∧ t = { s with
            pend := t.pend, evt := t.evt, trace := t.trace, env := t.env, rtcChip := t.rtcChip, displays := t.displays,
            ie := false }
      ∧ PendGrows { s with pend := { timer := false, button := false } } t
      ∧ (∀ b, lineGet s.drv (.btn b) = .high → lv b = true) ∧ (∀ b, lineGet s.drv (.btn b) = .low → lv b = false)
      ∧ ∀ (e1 e2 e3 : List EnvEvent) (rest : List (List EnvEvent)), (∀ b, lineGet s.drv (.btn b) = .z) →
        s.env.script = e1 :: e2 :: e3 :: rest →
          (lv .set = false ↔ lineGet (e1.foldl heldAfter s.env.held) (.btn .set) = true)
            ∧ (lv .inc = false ↔ lineGet ((e1 ++ e2).foldl heldAfter s.env.held) (.btn .inc) = true)
            ∧ (lv .dec = false ↔ lineGet ((e1 ++ e2 ++ e3).foldl heldAfter s.env.held) (.btn .dec) = true)
            ∧ t.env.script = rest

/-- R277 (D19), and log 6: with both sources pending SEQ.WAIT services the one the environment chooses and the other stays pending; where no choice is
scripted it is one of the two. -/
def Obligations.WaitServicesEitherOfTwo : Prop :=
  ∀ s : State, s.inHandler = false → s.pend = { timer := true, button := true } →
    ∃ t lv, exec .seqWait s = .next t
      ∧ (t.pend = { timer := false, button := true } ∧ t.evt = .timeTick ∧ t.trace = s.trace
          ∨ t.pend.timer = true ∧ t.evt = postedFor s.board lv ∧ t.trace = s.trace ++ buttonEvents lv)
      ∧ (∀ rest, s.env.picks = .timer :: rest → t.evt = .timeTick ∧ t.pend.button = true)
      ∧ ∀ rest, s.env.picks = .button :: rest → t.evt = postedFor s.board lv ∧ t.pend.timer = true

/-- R241, R278, R281, R332 (D34), and log 9: whenever a source is pending or the timer is enabled, SEQ.WAIT completes. Its hold ends
with a source pending, at once if one was pending at entry, and has changed no register but latches; then exactly one handler runs,
for a source that the hold left pending: the timer's, which leaves PEND as it was but for that latch, or the button's with its three
reads, which leaves the timer's latch set if it was. IE and IN_HANDLER are 0 and no other register has changed. -/
def Obligations.WaitRunsExactlyOneHandler : Prop :=
  ∀ s : State, s.inHandler = false → s.anyPending = true ∨ s.srcEn.timer = true →
    ∃ h t, ({ s with ie := true }).hold = some h ∧ h.anyPending = true
      ∧ h = { s with ie := true, pend := h.pend, env := h.env, rtcChip := h.rtcChip, displays := h.displays }
      ∧ PendGrows s h ∧ (s.anyPending = true → h = { s with ie := true })
      ∧ exec .seqWait s = .next t
      ∧ t = { s with
            pend := t.pend, evt := t.evt, trace := t.trace, env := t.env, rtcChip := t.rtcChip, displays := t.displays,
            ie := false }
      ∧ ((h.pend.timer = true ∧ t.pend = { h.pend with timer := false } ∧ t.trace = s.trace ∧ t.evt = .timeTick)
          ∨ (h.pend.button = true ∧ PendGrows { h with pend := { h.pend with button := false } } t
            ∧ ∃ lv, t.trace = s.trace ++ buttonEvents lv ∧ t.evt = postedFor s.board lv))

/-- R241, R332 (D34), and log 9: with nothing pending and no source enabled the hold never ends: SEQ.WAIT is stuck. -/
def Obligations.WaitWithoutSourcesNeverEnds : Prop :=
  ∀ s : State, s.inHandler = false → s.pend = { timer := false, button := false } →
    s.srcEn = { timer := false, button := false } → exec .seqWait s = .fault .waitNeverEnds

/-! ### The loop and the boot -/

/-- R240 (D16), R332 (D34), and log 9: SEQ.ITER completes in phase RENDER when what it renders is in range and a source is pending or
the timer enabled (that the hold then ends is R332's fairness), and is
the rule's sequence: FB.RENDER and DD.PRESENT if the mode is not Clock or REDRAW is set, FB.CLEAR, SEQ.WAIT, SEQ.DISPATCH, with the
phases the rule names; afterwards FB is zero, the mailbox empty, IE 0. -/
def Obligations.IterationIsTheRulesSequence : Prop :=
  ∀ s : State, s.inHandler = false → s.seqPhase = .render → s.anyPending = true ∨ s.srcEn.timer = true →
    (s.mode ≠ .clock ∨ s.redraw = true → s.digitsDrawable = true) →
    ∃ a b c t, exec .seqIter s = .next t
      ∧ (if s.mode ≠ .clock ∨ s.redraw = true then
          ∃ u, execAll [.fbRender, .ddPresent] s = .next u
            ∧ a = { u with redraw := if s.board.redrawClear then false else s.redraw }
        else a = s)
      ∧ exec .fbClear a = .next b ∧ exec .seqWait { b with seqPhase := .wait } = .next c
      ∧ exec .seqDispatch { c with seqPhase := .dispatch } = .next { t with seqPhase := .dispatch }
      ∧ t.seqPhase = .render ∧ t.evt = .none ∧ t.ie = false ∧ t.inHandler = false
      ∧ ∀ r c', r < 6 → c' < 24 → memRead t.fb (24 * r + c') = 0

/-- R237, R240 (D16), and log 16 (RES): an iteration in mode Clock with no redraw wanted whose button handler finds no button low renders nothing, moves no
line, and leaves mode, time and scratch. -/
def Obligations.IterationWithNoEventRendersNothing : Prop :=
  ∀ (s : State) (rest : List (List EnvEvent)), s.inHandler = false → s.seqPhase = .render → s.mode = .clock → s.redraw = false →
    s.pend = { timer := false, button := true } → (∀ b, lineGet s.drv (.btn b) = .z) →
    (∀ b, lineGet s.env.held (.btn b) = false) → s.env.script = [[], [], []] ++ rest →
    exec .seqIter s = .next { s with
      fb := [], pend := { timer := false, button := false }, evt := .none, ie := false,
      trace := s.trace ++ buttonEvents (fun _ => true), env := { s.env with script := rest } }

/-- R245 (D31), R312, and log 11: SEQ.BOOT completes in phase BOOT; from idle lines its whole effect, trace included, is what follows
the port initialisation in the rule's sequence: the sources enabled, RTC.INIT, DD.PRESENT, DD.ALLON, the read of the self-test
button, SEQ.SELFTEST if it is low, and phase RENDER. That the port initialisation then leaves no event in the trace is log 11's
(DEDUCED): R245 has it write each line the value it already has and says that this adds nothing observable, and P1 counts no event
for it. -/
def Obligations.BootFromIdleLinesIsItsSequence : Prop :=
  ∀ s : State, s.inHandler = false → s.seqPhase = .boot → LinesIdle s →
    ∃ a t, execAll [.rtcInit, .ddPresent, .ddAllon, .pinRead (lineId (.btn s.board.selfTestBtn))]
          { s with srcEn := { timer := true, button := true } } = .next a
      ∧ exec .seqBoot s = .next t
      ∧ (if a.res = 0 then exec .seqSelftest a = .next { t with seqPhase := .boot } else { t with seqPhase := .boot } = a)
      ∧ t.seqPhase = .render ∧ t.srcEn = { timer := true, button := true }

/-- R245, R311 (D3): SEQ.BOOT completes from any driver states and leaves every line idle (that only lines not already there are written is
the model's reading, log 11). -/
def Obligations.BootPutsEveryLineIdle : Prop :=
  ∀ s : State, s.inHandler = false → s.seqPhase = .boot →
    ∃ t, exec .seqBoot s = .next t ∧ LinesIdle t ∧ t.seqPhase = .render ∧ t.mode = s.mode ∧ t.scratch = s.scratch ∧ t.ie = s.ie
      ∧ t.evt = s.evt

/-- R246 (D26): SEQ.SELFTEST completes; it lights one more bit and presents, 1152 times in the rule's order, then clears and presents; FB
is zero afterwards and no register changes. -/
def Obligations.SelfTestLightsEveryBit : Prop :=
  ∀ s : State, s.inHandler = false → memWf s.fb = true →
    ∃ t, exec .seqSelftest s = .next t ∧ OnlyDrives { s with fb := t.fb } t ∧ t.fb = []
      ∧ t.trace = s.trace
          ++ ((List.range 1152).flatMap fun n => presentEvents s.board fun a => memRead s.fb a ||| litBits (n + 1) a)
          ++ presentEvents s.board fun _ => 0

/-! ### The whole machine -/

/-- R21, R23, R24, R26, R27, R29: who may write what. Whatever operation completes, MODE and SCRATCH are as before unless it is
SEQ.DISPATCH or SEQ.ITER; TIME and RTC_INVALID unless it does an RTC.GETTIME; FB unless it is a renderer's operation or one that
contains it; SEQ_PHASE unless it is SEQ.BOOT or SEQ.ITER. -/
def Obligations.RegistersHaveTheirOwners : Prop :=
  ∀ (i : Instr) (s t : State), exec i s = .next t →
    (i ≠ .seqDispatch → i ≠ .seqIter → t.mode = s.mode ∧ t.scratch = s.scratch)
      ∧ (i ≠ .rtcGettime → i ≠ .rtcInit → i ≠ .seqDispatch → i ≠ .seqIter → i ≠ .seqBoot →
          t.time = s.time ∧ t.redraw = s.redraw ∧ t.rtcInvalid = s.rtcInvalid)
      ∧ ((∀ g c, i ≠ .fbBigchar g c) → i ≠ .fbClear → i ≠ .fbRender → i ≠ .seqIter → i ≠ .seqBoot → i ≠ .seqSelftest → t.fb = s.fb)
      ∧ (i ≠ .seqBoot → i ≠ .seqIter → t.seqPhase = s.seqPhase)

/-- R27 (D12), R30, R34 (D31), R76, R275 (D18): no operation writes the tables and parameters; RTC_INVALID, once set, stays; an enabled source stays
enabled; a pending latch is cleared by SEQ.WAIT and SEQ.ITER only. -/
def Obligations.TablesAndStickyBitsStay : Prop :=
  ∀ (i : Instr) (s t : State), exec i s = .next t →
    t.board = s.board ∧ (s.rtcInvalid = true → t.rtcInvalid = true) ∧ (s.srcEn.timer = true → t.srcEn.timer = true)
      ∧ (s.srcEn.button = true → t.srcEn.button = true)
      ∧ (i ≠ .seqWait → i ≠ .seqIter →
          (s.pend.timer = true → t.pend.timer = true) ∧ (s.pend.button = true → t.pend.button = true))

/-- R10 (D2), R73: whatever operation completes, its line events are appended to the trace and no earlier event changes. -/
def Obligations.TraceOnlyGrows : Prop :=
  ∀ (i : Instr) (s t : State), exec i s = .next t → ∃ es, t.trace = s.trace ++ es

/-- R22, R61, R33, R36, R44, R219: the machine's invariant holds after reset, and after a loss of main power in a state that meets it
(R314, logs 8 and 14). -/
def Obligations.InvariantHoldsAtReset : Prop :=
  State.reset.Inv ∧ ∀ (s : State) (backup : Bool), s.Inv → (s.powerOn backup).Inv

/-- R22, R61, R33, R36, R44, R219: every step keeps the machine's invariant, whatever command word is presented. -/
def Obligations.EveryStepKeepsTheInvariant : Prop :=
  ∀ s t : State, s.Inv → step s = .next t → t.Inv

/-- R312, R213, R219, R332 (D34), and log 9: where the invariant holds and no command word is presented the sequencer neither refuses nor stops, and
afterwards it is at the top of an iteration. -/
def Obligations.SequencerNeverStops : Prop :=
  ∀ s : State, s.Inv → s.port = [] → ∃ t, step s = .next t ∧ t.Inv ∧ t.port = [] ∧ t.seqPhase = .render

/-- R146, R160: between the sequencer's operations every line of both buses is idle. -/
def Obligations.BusesIdleBetweenOperations : Prop :=
  ∀ s t : State, s.Inv → s.port = [] → (s.seqPhase = .boot ∨ LinesIdle s) → step s = .next t → LinesIdle t

/-- R10 (D2), R120, R121, and log 3: a write that does not change a line's driver state adds nothing to the waveform, nor does one
that changes it without changing a level, and one that changes the line's level adds the one new vector of levels. So PIN.SET of a
line already at 1 and PIN.CLR of one already at 0 complete with their write in the trace and the waveform and the lines as before. -/
def Obligations.UnchangedWritesAreNotObservable : Prop :=
  (∀ (held : LineMap Bool) (drv : LineMap Drive) (l : Line) (v : Drive) (es : List LineEvent),
      (lineGet drv l = v → waveform held drv (.wrote l v :: es) = waveform held drv es)
        ∧ (lineLevel held (lineSet drv l v) l = lineLevel held drv l →
            waveform held drv (.wrote l v :: es) = waveform held (lineSet drv l v) es)
        ∧ (lineLevel held (lineSet drv l v) l ≠ lineLevel held drv l →
            waveform held drv (.wrote l v :: es) = levels held (lineSet drv l v) :: waveform held (lineSet drv l v) es))
    ∧ ∀ (s : State) (id : BitVec 8) (l : Line) (held : LineMap Bool) (drv : LineMap Drive), s.inHandler = false →
      lineOfId id = some l → (∀ b, l ≠ .btn b) → drivenBy drv s.trace = s.drv →
        (lineGet s.drv l = .high → ∃ t, exec (.pinSet id) s = .next t ∧ t.trace = s.trace ++ [.wrote l .high] ∧ t.drv = s.drv
            ∧ waveform held drv t.trace = waveform held drv s.trace)
          ∧ (lineGet s.drv l = .low → ∃ t, exec (.pinClr id) s = .next t ∧ t.trace = s.trace ++ [.wrote l .low] ∧ t.drv = s.drv
            ∧ waveform held drv t.trace = waveform held drv s.trace)
end

