-- ==== Sys2Proof/Laws/Memory.lean ====
section
/-! SUPPORT. The laws of memory and of one value per line: a read after a write, the canonical form, and that a write to one
line leaves every other alone (rule R124). -/

namespace Sys2Proof.Machine

@[simp] theorem memRead_nil (a : Nat) : memRead [] a = 0 := rfl

@[simp] theorem memWf_nil : memWf [] = true := rfl

theorem memRead_cons (b : Nat) (w : Byte) (m : Memory) (a : Nat) :
    memRead ((b, w) :: m) a = if a = b then w else memRead m a := rfl

theorem memWf_cons (a : Nat) (v : Byte) (m : Memory) :
    memWf ((a, v) :: m) = true ↔ v ≠ 0#8 ∧ (∀ c ∈ m, a < c.1) ∧ memWf m = true := by
  simp [memWf, and_assoc]

/-- Below every listed address memory reads 0. -/
theorem memRead_of_lt (m : Memory) (a : Nat) (h : ∀ c ∈ m, a < c.1) : memRead m a = 0#8 := by
  induction m with
  | nil => rfl
  | cons c m ih =>
    obtain ⟨b, w⟩ := c
    have hb : a < b := h (b, w) (by simp)
    rw [memRead_cons, if_neg (by omega)]
    exact ih fun c hc => h c (by simp [hc])

/-- A read after a write: the byte written at its address, and every other address as before. -/
theorem memRead_memWrite (m : Memory) (a : Nat) (v : Byte) (b : Nat) (hm : memWf m = true) :
    memRead (memWrite m a v) b = if b = a then v else memRead m b := by
  induction m with
  | nil =>
    unfold memWrite
    by_cases hv : v = 0#8 <;> by_cases hb : b = a <;> simp [hv, hb, memRead_cons]
  | cons c m ih =>
    obtain ⟨d, w⟩ := c
    obtain ⟨_, hlt, hwf⟩ := (memWf_cons d w m).1 hm
    unfold memWrite
    by_cases h1 : a < d
    · by_cases hv : v = 0#8
      · by_cases hb : b = a
        · subst hb
          have h0 : memRead m b = 0#8 := memRead_of_lt m b fun c hc => lt_trans h1 (hlt c hc)
          simp [h1, hv, memRead_cons, h0, Nat.ne_of_lt h1]
        · simp [h1, hv, hb]
      · by_cases hb : b = a <;> simp [h1, hv, hb, memRead_cons]
    · by_cases h2 : a = d
      · subst h2
        by_cases hv : v = 0#8
        · by_cases hb : b = a
          · subst hb
            simp [hv, memRead_of_lt m b hlt]
          · simp [hv, hb, memRead_cons]
        · by_cases hb : b = a <;> simp [hv, hb, memRead_cons]
      · rw [if_neg h1, if_neg h2, memRead_cons, memRead_cons, ih hwf]
        by_cases hb : b = d
        · simp [hb, Ne.symm h2]
        · simp [hb]

/-- An entry after a write is the written one or an old one. -/
theorem mem_memWrite {m : Memory} {a : Nat} {v : Byte} {c : Host.Cell} (h : c ∈ memWrite m a v) : c = (a, v) ∨ c ∈ m := by
  induction m with
  | nil =>
    unfold memWrite at h
    by_cases hv : v = 0#8 <;> simp_all
  | cons d m ih =>
    obtain ⟨e, w⟩ := d
    unfold memWrite at h
    by_cases h1 : a < e
    · by_cases hv : v = 0#8 <;> simp_all
    · by_cases h2 : a = e
      · by_cases hv : v = 0#8 <;> simp_all
        rcases h with h | h <;> simp [h]
      · rw [if_neg h1, if_neg h2] at h
        rcases List.mem_cons.1 h with h | h
        · exact .inr (by simp [h])
        · rcases ih h with h | h
          · exact .inl h
          · exact .inr (by simp [h])

/-- A write keeps the canonical form. -/
theorem memWf_memWrite (m : Memory) (a : Nat) (v : Byte) (hm : memWf m = true) : memWf (memWrite m a v) = true := by
  induction m with
  | nil =>
    unfold memWrite
    by_cases hv : v = 0#8 <;> simp [hv, memWf]
  | cons c m ih =>
    obtain ⟨d, w⟩ := c
    obtain ⟨hw, hlt, hwf⟩ := (memWf_cons d w m).1 hm
    unfold memWrite
    by_cases h1 : a < d
    · by_cases hv : v = 0#8
      · simp [h1, hv, hm]
      · rw [if_pos h1, if_neg hv, memWf_cons]
        refine ⟨hv, fun c hc => ?_, hm⟩
        rcases List.mem_cons.1 hc with hc | hc
        · simp [hc, h1]
        · exact lt_trans h1 (hlt c hc)
    · by_cases h2 : a = d
      · subst h2
        by_cases hv : v = 0#8
        · simp [hv, hwf]
        · rw [if_neg h1, if_pos rfl, if_neg hv, memWf_cons]
          exact ⟨hv, hlt, hwf⟩
      · rw [if_neg h1, if_neg h2, memWf_cons]
        refine ⟨hw, fun c hc => ?_, ih hwf⟩
        rcases mem_memWrite hc with hc | hc
        · subst hc
          exact lt_of_le_of_ne (Nat.le_of_not_lt h1) (Ne.symm h2)
        · exact hlt c hc

/-- A write below a bound keeps memory below it. -/
theorem memBelow_memWrite (n : Nat) (m : Memory) (a : Nat) (v : Byte) (hm : memBelow n m = true) (ha : a < n) :
    memBelow n (memWrite m a v) = true := by
  simp only [memBelow, List.all_eq_true, decide_eq_true_eq] at hm ⊢
  intro c hc
  rcases mem_memWrite hc with rfl | hc
  · exact ha
  · exact hm c hc

/-- A sequence of writes keeps the canonical form. -/
theorem memWf_memWriteAll (ws : List (Nat × Byte)) (m : Memory) (hm : memWf m = true) : memWf (memWriteAll m ws) = true := by
  induction ws generalizing m with
  | nil => exact hm
  | cons w ws ih => exact ih _ (memWf_memWrite m w.1 w.2 hm)

/-- A sequence of writes below a bound keeps memory below it. -/
theorem memBelow_memWriteAll (n : Nat) (ws : List (Nat × Byte)) (m : Memory) (hm : memBelow n m = true)
    (hw : ∀ w ∈ ws, w.1 < n) : memBelow n (memWriteAll m ws) = true := by
  induction ws generalizing m with
  | nil => exact hm
  | cons w ws ih =>
    exact ih _ (memBelow_memWrite n m w.1 w.2 hm (hw w (by simp))) fun x hx => hw x (by simp [hx])

/-- An address that a sequence of writes does not name reads as before. -/
theorem memRead_memWriteAll_of_notMem (ws : List (Nat × Byte)) (m : Memory) (a : Nat) (hm : memWf m = true)
    (ha : ∀ w ∈ ws, w.1 ≠ a) : memRead (memWriteAll m ws) a = memRead m a := by
  induction ws generalizing m with
  | nil => rfl
  | cons w ws ih =>
    have h1 := ih (memWrite m w.1 w.2) (memWf_memWrite _ _ _ hm) fun x hx => ha x (by simp [hx])
    have h2 := memRead_memWrite m w.1 w.2 a hm
    rw [if_neg (Ne.symm (ha w (by simp)))] at h2
    exact h1.trans h2

/-- Where a sequence of writes names each address once, an address it names reads as written. -/
theorem memRead_memWriteAll_of_mem (ws : List (Nat × Byte)) (m : Memory) (a : Nat) (v : Byte) (hm : memWf m = true)
    (hnd : (ws.map (·.1)).Nodup) (ha : (a, v) ∈ ws) : memRead (memWriteAll m ws) a = v := by
  induction ws generalizing m with
  | nil => simp at ha
  | cons w ws ih =>
    have hnd' : w.1 ∉ ws.map (·.1) ∧ (ws.map (·.1)).Nodup := List.nodup_cons.1 hnd
    rcases List.mem_cons.1 ha with rfl | ha
    · have h1 := memRead_memWriteAll_of_notMem ws (memWrite m a v) a (memWf_memWrite _ _ _ hm)
        fun x hx he => hnd'.1 (List.mem_map.2 ⟨x, hx, he⟩)
      have h2 := memRead_memWrite m a v a hm
      rw [if_pos rfl] at h2
      exact h1.trans h2
    · exact ih _ (memWf_memWrite _ _ _ hm) hnd'.2 ha

/-! ### One value per chip, one value per line -/

theorem nineGet_nineSet {α : Type} (n : Nine α) (k j : Chip) (x : α) :
    nineGet (nineSet n k x) j = if j = k then x else nineGet n j := by
  fin_cases k <;> fin_cases j <;> rfl

@[simp] theorem nineGet_nineOf {α : Type} (f : Chip → α) (k : Chip) : nineGet (nineOf f) k = f k := by
  fin_cases k <;> rfl

@[simp] theorem lineGet_lineOf {α : Type} (f : Line → α) (l : Line) : lineGet (lineOf f) l = f l := by
  cases l with
  | ddClk k => exact nineGet_nineOf _ k
  | btn b => cases b <;> rfl
  | ddData | rtcScl | rtcSda => rfl

/-- A write to one line leaves every other line alone, rule R124. -/
theorem lineGet_lineSet {α : Type} (m : LineMap α) (l l' : Line) (x : α) :
    lineGet (lineSet m l x) l' = if l' = l then x else lineGet m l' := by
  cases l with
  | ddClk k =>
    cases l' with
    | ddClk j =>
      have h := nineGet_nineSet m.ddClk k j x
      simp only [lineSet, lineGet, Line.ddClk.injEq]
      exact h
    | btn b => cases b <;> rfl
    | ddData | rtcScl | rtcSda => rfl
  | btn b =>
    cases l' with
    | btn c => cases b <;> cases c <;> rfl
    | ddClk j => cases b <;> rfl
    | ddData | rtcScl | rtcSda => cases b <;> rfl
  | ddData | rtcScl | rtcSda =>
    cases l' with
    | btn c => cases c <;> rfl
    | ddClk j => rfl
    | ddData | rtcScl | rtcSda => rfl

end Sys2Proof.Machine
end

