-- ==== Sys2Proof/Laws/State.lean ====
section
/-! SUPPORT. What each named update of the state leaves unchanged and what it writes, one lemma a field. -/

namespace Sys2Proof.Machine

/-! ### `State.drive` -/

@[simp] theorem State.drive_time (s : State) (ws : List (Line × Drive)) : (s.drive ws).time = s.time := rfl
@[simp] theorem State.drive_scratch (s : State) (ws : List (Line × Drive)) : (s.drive ws).scratch = s.scratch := rfl
@[simp] theorem State.drive_res (s : State) (ws : List (Line × Drive)) : (s.drive ws).res = s.res := rfl
@[simp] theorem State.drive_redraw (s : State) (ws : List (Line × Drive)) : (s.drive ws).redraw = s.redraw := rfl
@[simp] theorem State.drive_rtcInvalid (s : State) (ws : List (Line × Drive)) : (s.drive ws).rtcInvalid = s.rtcInvalid := rfl
@[simp] theorem State.drive_mode (s : State) (ws : List (Line × Drive)) : (s.drive ws).mode = s.mode := rfl
@[simp] theorem State.drive_evt (s : State) (ws : List (Line × Drive)) : (s.drive ws).evt = s.evt := rfl
@[simp] theorem State.drive_ie (s : State) (ws : List (Line × Drive)) : (s.drive ws).ie = s.ie := rfl
@[simp] theorem State.drive_srcEn (s : State) (ws : List (Line × Drive)) : (s.drive ws).srcEn = s.srcEn := rfl
@[simp] theorem State.drive_pend (s : State) (ws : List (Line × Drive)) : (s.drive ws).pend = s.pend := rfl
@[simp] theorem State.drive_inHandler (s : State) (ws : List (Line × Drive)) : (s.drive ws).inHandler = s.inHandler := rfl
@[simp] theorem State.drive_seqPhase (s : State) (ws : List (Line × Drive)) : (s.drive ws).seqPhase = s.seqPhase := rfl
@[simp] theorem State.drive_fb (s : State) (ws : List (Line × Drive)) : (s.drive ws).fb = s.fb := rfl
@[simp] theorem State.drive_board (s : State) (ws : List (Line × Drive)) : (s.drive ws).board = s.board := rfl
@[simp] theorem State.drive_port (s : State) (ws : List (Line × Drive)) : (s.drive ws).port = s.port := rfl
@[simp] theorem State.drive_env (s : State) (ws : List (Line × Drive)) : (s.drive ws).env = s.env := rfl

/-! ### `State.absorb` -/

@[simp] theorem State.absorb_time (s : State) (es : List EnvEvent) : (s.absorb es).time = s.time := rfl
@[simp] theorem State.absorb_scratch (s : State) (es : List EnvEvent) : (s.absorb es).scratch = s.scratch := rfl
@[simp] theorem State.absorb_res (s : State) (es : List EnvEvent) : (s.absorb es).res = s.res := rfl
@[simp] theorem State.absorb_redraw (s : State) (es : List EnvEvent) : (s.absorb es).redraw = s.redraw := rfl
@[simp] theorem State.absorb_rtcInvalid (s : State) (es : List EnvEvent) : (s.absorb es).rtcInvalid = s.rtcInvalid := rfl
@[simp] theorem State.absorb_mode (s : State) (es : List EnvEvent) : (s.absorb es).mode = s.mode := rfl
@[simp] theorem State.absorb_evt (s : State) (es : List EnvEvent) : (s.absorb es).evt = s.evt := rfl
@[simp] theorem State.absorb_ie (s : State) (es : List EnvEvent) : (s.absorb es).ie = s.ie := rfl
@[simp] theorem State.absorb_srcEn (s : State) (es : List EnvEvent) : (s.absorb es).srcEn = s.srcEn := rfl
@[simp] theorem State.absorb_inHandler (s : State) (es : List EnvEvent) : (s.absorb es).inHandler = s.inHandler := rfl
@[simp] theorem State.absorb_seqPhase (s : State) (es : List EnvEvent) : (s.absorb es).seqPhase = s.seqPhase := rfl
@[simp] theorem State.absorb_fb (s : State) (es : List EnvEvent) : (s.absorb es).fb = s.fb := rfl
@[simp] theorem State.absorb_drv (s : State) (es : List EnvEvent) : (s.absorb es).drv = s.drv := rfl
@[simp] theorem State.absorb_board (s : State) (es : List EnvEvent) : (s.absorb es).board = s.board := rfl
@[simp] theorem State.absorb_trace (s : State) (es : List EnvEvent) : (s.absorb es).trace = s.trace := rfl
@[simp] theorem State.absorb_port (s : State) (es : List EnvEvent) : (s.absorb es).port = s.port := rfl

/-! ### `State.arrive` -/

@[simp] theorem State.arrive_time (s : State) : s.arrive.time = s.time := rfl
@[simp] theorem State.arrive_scratch (s : State) : s.arrive.scratch = s.scratch := rfl
@[simp] theorem State.arrive_res (s : State) : s.arrive.res = s.res := rfl
@[simp] theorem State.arrive_redraw (s : State) : s.arrive.redraw = s.redraw := rfl
@[simp] theorem State.arrive_rtcInvalid (s : State) : s.arrive.rtcInvalid = s.rtcInvalid := rfl
@[simp] theorem State.arrive_mode (s : State) : s.arrive.mode = s.mode := rfl
@[simp] theorem State.arrive_evt (s : State) : s.arrive.evt = s.evt := rfl
@[simp] theorem State.arrive_ie (s : State) : s.arrive.ie = s.ie := rfl
@[simp] theorem State.arrive_srcEn (s : State) : s.arrive.srcEn = s.srcEn := rfl
@[simp] theorem State.arrive_inHandler (s : State) : s.arrive.inHandler = s.inHandler := rfl
@[simp] theorem State.arrive_seqPhase (s : State) : s.arrive.seqPhase = s.seqPhase := rfl
@[simp] theorem State.arrive_fb (s : State) : s.arrive.fb = s.fb := rfl
@[simp] theorem State.arrive_drv (s : State) : s.arrive.drv = s.drv := rfl
@[simp] theorem State.arrive_board (s : State) : s.arrive.board = s.board := rfl
@[simp] theorem State.arrive_trace (s : State) : s.arrive.trace = s.trace := rfl
@[simp] theorem State.arrive_port (s : State) : s.arrive.port = s.port := rfl

/-! ### `State.beforeRead` -/

@[simp] theorem State.beforeRead_time (s : State) (l : Line) : (s.beforeRead l).time = s.time := by unfold State.beforeRead; split <;> rfl
@[simp] theorem State.beforeRead_scratch (s : State) (l : Line) : (s.beforeRead l).scratch = s.scratch := by unfold State.beforeRead; split <;> rfl
@[simp] theorem State.beforeRead_res (s : State) (l : Line) : (s.beforeRead l).res = s.res := by unfold State.beforeRead; split <;> rfl
@[simp] theorem State.beforeRead_redraw (s : State) (l : Line) : (s.beforeRead l).redraw = s.redraw := by unfold State.beforeRead; split <;> rfl
@[simp] theorem State.beforeRead_rtcInvalid (s : State) (l : Line) : (s.beforeRead l).rtcInvalid = s.rtcInvalid := by unfold State.beforeRead; split <;> rfl
@[simp] theorem State.beforeRead_mode (s : State) (l : Line) : (s.beforeRead l).mode = s.mode := by unfold State.beforeRead; split <;> rfl
@[simp] theorem State.beforeRead_evt (s : State) (l : Line) : (s.beforeRead l).evt = s.evt := by unfold State.beforeRead; split <;> rfl
@[simp] theorem State.beforeRead_ie (s : State) (l : Line) : (s.beforeRead l).ie = s.ie := by unfold State.beforeRead; split <;> rfl
@[simp] theorem State.beforeRead_srcEn (s : State) (l : Line) : (s.beforeRead l).srcEn = s.srcEn := by unfold State.beforeRead; split <;> rfl
@[simp] theorem State.beforeRead_inHandler (s : State) (l : Line) : (s.beforeRead l).inHandler = s.inHandler := by unfold State.beforeRead; split <;> rfl
@[simp] theorem State.beforeRead_seqPhase (s : State) (l : Line) : (s.beforeRead l).seqPhase = s.seqPhase := by unfold State.beforeRead; split <;> rfl
@[simp] theorem State.beforeRead_fb (s : State) (l : Line) : (s.beforeRead l).fb = s.fb := by unfold State.beforeRead; split <;> rfl
@[simp] theorem State.beforeRead_drv (s : State) (l : Line) : (s.beforeRead l).drv = s.drv := by unfold State.beforeRead; split <;> rfl
@[simp] theorem State.beforeRead_board (s : State) (l : Line) : (s.beforeRead l).board = s.board := by unfold State.beforeRead; split <;> rfl
@[simp] theorem State.beforeRead_trace (s : State) (l : Line) : (s.beforeRead l).trace = s.trace := by unfold State.beforeRead; split <;> rfl
@[simp] theorem State.beforeRead_port (s : State) (l : Line) : (s.beforeRead l).port = s.port := by unfold State.beforeRead; split <;> rfl

/-! ### `State.afterRead` -/

@[simp] theorem State.afterRead_time (s : State) (l : Line) : (s.afterRead l).time = s.time := State.beforeRead_time s l
@[simp] theorem State.afterRead_scratch (s : State) (l : Line) : (s.afterRead l).scratch = s.scratch := State.beforeRead_scratch s l
@[simp] theorem State.afterRead_res (s : State) (l : Line) : (s.afterRead l).res = s.res := State.beforeRead_res s l
@[simp] theorem State.afterRead_redraw (s : State) (l : Line) : (s.afterRead l).redraw = s.redraw := State.beforeRead_redraw s l
@[simp] theorem State.afterRead_rtcInvalid (s : State) (l : Line) : (s.afterRead l).rtcInvalid = s.rtcInvalid := State.beforeRead_rtcInvalid s l
@[simp] theorem State.afterRead_mode (s : State) (l : Line) : (s.afterRead l).mode = s.mode := State.beforeRead_mode s l
@[simp] theorem State.afterRead_evt (s : State) (l : Line) : (s.afterRead l).evt = s.evt := State.beforeRead_evt s l
@[simp] theorem State.afterRead_ie (s : State) (l : Line) : (s.afterRead l).ie = s.ie := State.beforeRead_ie s l
@[simp] theorem State.afterRead_srcEn (s : State) (l : Line) : (s.afterRead l).srcEn = s.srcEn := State.beforeRead_srcEn s l
@[simp] theorem State.afterRead_inHandler (s : State) (l : Line) : (s.afterRead l).inHandler = s.inHandler := State.beforeRead_inHandler s l
@[simp] theorem State.afterRead_seqPhase (s : State) (l : Line) : (s.afterRead l).seqPhase = s.seqPhase := State.beforeRead_seqPhase s l
@[simp] theorem State.afterRead_fb (s : State) (l : Line) : (s.afterRead l).fb = s.fb := State.beforeRead_fb s l
@[simp] theorem State.afterRead_drv (s : State) (l : Line) : (s.afterRead l).drv = s.drv := State.beforeRead_drv s l
@[simp] theorem State.afterRead_board (s : State) (l : Line) : (s.afterRead l).board = s.board := State.beforeRead_board s l
@[simp] theorem State.afterRead_port (s : State) (l : Line) : (s.afterRead l).port = s.port := State.beforeRead_port s l

/-! ### `State.pinRead` -/

@[simp] theorem State.pinRead_time (s : State) (l : Line) : (s.pinRead l).time = s.time := State.beforeRead_time s l
@[simp] theorem State.pinRead_scratch (s : State) (l : Line) : (s.pinRead l).scratch = s.scratch := State.beforeRead_scratch s l
@[simp] theorem State.pinRead_redraw (s : State) (l : Line) : (s.pinRead l).redraw = s.redraw := State.beforeRead_redraw s l
@[simp] theorem State.pinRead_rtcInvalid (s : State) (l : Line) : (s.pinRead l).rtcInvalid = s.rtcInvalid := State.beforeRead_rtcInvalid s l
@[simp] theorem State.pinRead_mode (s : State) (l : Line) : (s.pinRead l).mode = s.mode := State.beforeRead_mode s l
@[simp] theorem State.pinRead_evt (s : State) (l : Line) : (s.pinRead l).evt = s.evt := State.beforeRead_evt s l
@[simp] theorem State.pinRead_ie (s : State) (l : Line) : (s.pinRead l).ie = s.ie := State.beforeRead_ie s l
@[simp] theorem State.pinRead_srcEn (s : State) (l : Line) : (s.pinRead l).srcEn = s.srcEn := State.beforeRead_srcEn s l
@[simp] theorem State.pinRead_inHandler (s : State) (l : Line) : (s.pinRead l).inHandler = s.inHandler := State.beforeRead_inHandler s l
@[simp] theorem State.pinRead_seqPhase (s : State) (l : Line) : (s.pinRead l).seqPhase = s.seqPhase := State.beforeRead_seqPhase s l
@[simp] theorem State.pinRead_fb (s : State) (l : Line) : (s.pinRead l).fb = s.fb := State.beforeRead_fb s l
@[simp] theorem State.pinRead_drv (s : State) (l : Line) : (s.pinRead l).drv = s.drv := State.beforeRead_drv s l
@[simp] theorem State.pinRead_board (s : State) (l : Line) : (s.pinRead l).board = s.board := State.beforeRead_board s l
@[simp] theorem State.pinRead_port (s : State) (l : Line) : (s.pinRead l).port = s.port := State.beforeRead_port s l

/-! ### `State.settle` -/

@[simp] theorem State.settle_scratch (s : State) (new : TimeOfDay) : (s.settle new).scratch = s.scratch := by unfold State.settle; split <;> rfl
@[simp] theorem State.settle_res (s : State) (new : TimeOfDay) : (s.settle new).res = s.res := by unfold State.settle; split <;> rfl
@[simp] theorem State.settle_mode (s : State) (new : TimeOfDay) : (s.settle new).mode = s.mode := by unfold State.settle; split <;> rfl
@[simp] theorem State.settle_evt (s : State) (new : TimeOfDay) : (s.settle new).evt = s.evt := by unfold State.settle; split <;> rfl
@[simp] theorem State.settle_ie (s : State) (new : TimeOfDay) : (s.settle new).ie = s.ie := by unfold State.settle; split <;> rfl
@[simp] theorem State.settle_srcEn (s : State) (new : TimeOfDay) : (s.settle new).srcEn = s.srcEn := by unfold State.settle; split <;> rfl
@[simp] theorem State.settle_pend (s : State) (new : TimeOfDay) : (s.settle new).pend = s.pend := by unfold State.settle; split <;> rfl
@[simp] theorem State.settle_inHandler (s : State) (new : TimeOfDay) : (s.settle new).inHandler = s.inHandler := by unfold State.settle; split <;> rfl
@[simp] theorem State.settle_seqPhase (s : State) (new : TimeOfDay) : (s.settle new).seqPhase = s.seqPhase := by unfold State.settle; split <;> rfl
@[simp] theorem State.settle_fb (s : State) (new : TimeOfDay) : (s.settle new).fb = s.fb := by unfold State.settle; split <;> rfl
@[simp] theorem State.settle_drv (s : State) (new : TimeOfDay) : (s.settle new).drv = s.drv := by unfold State.settle; split <;> rfl
@[simp] theorem State.settle_board (s : State) (new : TimeOfDay) : (s.settle new).board = s.board := by unfold State.settle; split <;> rfl
@[simp] theorem State.settle_trace (s : State) (new : TimeOfDay) : (s.settle new).trace = s.trace := by unfold State.settle; split <;> rfl
@[simp] theorem State.settle_port (s : State) (new : TimeOfDay) : (s.settle new).port = s.port := by unfold State.settle; split <;> rfl
@[simp] theorem State.settle_env (s : State) (new : TimeOfDay) : (s.settle new).env = s.env := by unfold State.settle; split <;> rfl
@[simp] theorem State.settle_rtcChip (s : State) (new : TimeOfDay) : (s.settle new).rtcChip = s.rtcChip := by unfold State.settle; split <;> rfl
@[simp] theorem State.settle_displays (s : State) (new : TimeOfDay) : (s.settle new).displays = s.displays := by unfold State.settle; split <;> rfl

/-! ### `State.clearRedraw` -/

@[simp] theorem State.clearRedraw_time (s : State) : s.clearRedraw.time = s.time := rfl
@[simp] theorem State.clearRedraw_scratch (s : State) : s.clearRedraw.scratch = s.scratch := rfl
@[simp] theorem State.clearRedraw_res (s : State) : s.clearRedraw.res = s.res := rfl
@[simp] theorem State.clearRedraw_rtcInvalid (s : State) : s.clearRedraw.rtcInvalid = s.rtcInvalid := rfl
@[simp] theorem State.clearRedraw_mode (s : State) : s.clearRedraw.mode = s.mode := rfl
@[simp] theorem State.clearRedraw_evt (s : State) : s.clearRedraw.evt = s.evt := rfl
@[simp] theorem State.clearRedraw_ie (s : State) : s.clearRedraw.ie = s.ie := rfl
@[simp] theorem State.clearRedraw_srcEn (s : State) : s.clearRedraw.srcEn = s.srcEn := rfl
@[simp] theorem State.clearRedraw_pend (s : State) : s.clearRedraw.pend = s.pend := rfl
@[simp] theorem State.clearRedraw_inHandler (s : State) : s.clearRedraw.inHandler = s.inHandler := rfl
@[simp] theorem State.clearRedraw_seqPhase (s : State) : s.clearRedraw.seqPhase = s.seqPhase := rfl
@[simp] theorem State.clearRedraw_fb (s : State) : s.clearRedraw.fb = s.fb := rfl
@[simp] theorem State.clearRedraw_drv (s : State) : s.clearRedraw.drv = s.drv := rfl
@[simp] theorem State.clearRedraw_board (s : State) : s.clearRedraw.board = s.board := rfl
@[simp] theorem State.clearRedraw_trace (s : State) : s.clearRedraw.trace = s.trace := rfl
@[simp] theorem State.clearRedraw_port (s : State) : s.clearRedraw.port = s.port := rfl
@[simp] theorem State.clearRedraw_env (s : State) : s.clearRedraw.env = s.env := rfl
@[simp] theorem State.clearRedraw_rtcChip (s : State) : s.clearRedraw.rtcChip = s.rtcChip := rfl
@[simp] theorem State.clearRedraw_displays (s : State) : s.clearRedraw.displays = s.displays := rfl

/-! ### `State.enterHandler` -/

@[simp] theorem State.enterHandler_time (s : State) (src : Source) : (s.enterHandler src).time = s.time := rfl
@[simp] theorem State.enterHandler_scratch (s : State) (src : Source) : (s.enterHandler src).scratch = s.scratch := rfl
@[simp] theorem State.enterHandler_res (s : State) (src : Source) : (s.enterHandler src).res = s.res := rfl
@[simp] theorem State.enterHandler_redraw (s : State) (src : Source) : (s.enterHandler src).redraw = s.redraw := rfl
@[simp] theorem State.enterHandler_rtcInvalid (s : State) (src : Source) : (s.enterHandler src).rtcInvalid = s.rtcInvalid := rfl
@[simp] theorem State.enterHandler_mode (s : State) (src : Source) : (s.enterHandler src).mode = s.mode := rfl
@[simp] theorem State.enterHandler_evt (s : State) (src : Source) : (s.enterHandler src).evt = s.evt := rfl
@[simp] theorem State.enterHandler_ie (s : State) (src : Source) : (s.enterHandler src).ie = s.ie := rfl
@[simp] theorem State.enterHandler_srcEn (s : State) (src : Source) : (s.enterHandler src).srcEn = s.srcEn := rfl
@[simp] theorem State.enterHandler_seqPhase (s : State) (src : Source) : (s.enterHandler src).seqPhase = s.seqPhase := rfl
@[simp] theorem State.enterHandler_fb (s : State) (src : Source) : (s.enterHandler src).fb = s.fb := rfl
@[simp] theorem State.enterHandler_drv (s : State) (src : Source) : (s.enterHandler src).drv = s.drv := rfl
@[simp] theorem State.enterHandler_board (s : State) (src : Source) : (s.enterHandler src).board = s.board := rfl
@[simp] theorem State.enterHandler_trace (s : State) (src : Source) : (s.enterHandler src).trace = s.trace := rfl
@[simp] theorem State.enterHandler_port (s : State) (src : Source) : (s.enterHandler src).port = s.port := rfl
@[simp] theorem State.enterHandler_rtcChip (s : State) (src : Source) : (s.enterHandler src).rtcChip = s.rtcChip := rfl
@[simp] theorem State.enterHandler_displays (s : State) (src : Source) : (s.enterHandler src).displays = s.displays := rfl

/-! ### `State.leaveHandler` -/

@[simp] theorem State.leaveHandler_time (s : State) : s.leaveHandler.time = s.time := rfl
@[simp] theorem State.leaveHandler_scratch (s : State) : s.leaveHandler.scratch = s.scratch := rfl
@[simp] theorem State.leaveHandler_res (s : State) : s.leaveHandler.res = s.res := rfl
@[simp] theorem State.leaveHandler_redraw (s : State) : s.leaveHandler.redraw = s.redraw := rfl
@[simp] theorem State.leaveHandler_rtcInvalid (s : State) : s.leaveHandler.rtcInvalid = s.rtcInvalid := rfl
@[simp] theorem State.leaveHandler_mode (s : State) : s.leaveHandler.mode = s.mode := rfl
@[simp] theorem State.leaveHandler_evt (s : State) : s.leaveHandler.evt = s.evt := rfl
@[simp] theorem State.leaveHandler_ie (s : State) : s.leaveHandler.ie = s.ie := rfl
@[simp] theorem State.leaveHandler_srcEn (s : State) : s.leaveHandler.srcEn = s.srcEn := rfl
@[simp] theorem State.leaveHandler_pend (s : State) : s.leaveHandler.pend = s.pend := rfl
@[simp] theorem State.leaveHandler_seqPhase (s : State) : s.leaveHandler.seqPhase = s.seqPhase := rfl
@[simp] theorem State.leaveHandler_fb (s : State) : s.leaveHandler.fb = s.fb := rfl
@[simp] theorem State.leaveHandler_drv (s : State) : s.leaveHandler.drv = s.drv := rfl
@[simp] theorem State.leaveHandler_board (s : State) : s.leaveHandler.board = s.board := rfl
@[simp] theorem State.leaveHandler_trace (s : State) : s.leaveHandler.trace = s.trace := rfl
@[simp] theorem State.leaveHandler_port (s : State) : s.leaveHandler.port = s.port := rfl
@[simp] theorem State.leaveHandler_env (s : State) : s.leaveHandler.env = s.env := rfl
@[simp] theorem State.leaveHandler_rtcChip (s : State) : s.leaveHandler.rtcChip = s.rtcChip := rfl
@[simp] theorem State.leaveHandler_displays (s : State) : s.leaveHandler.displays = s.displays := rfl

/-! ### `State.post` -/

@[simp] theorem State.post_time (s : State) (e : Event) : (s.post e).time = s.time := rfl
@[simp] theorem State.post_scratch (s : State) (e : Event) : (s.post e).scratch = s.scratch := rfl
@[simp] theorem State.post_res (s : State) (e : Event) : (s.post e).res = s.res := rfl
@[simp] theorem State.post_redraw (s : State) (e : Event) : (s.post e).redraw = s.redraw := rfl
@[simp] theorem State.post_rtcInvalid (s : State) (e : Event) : (s.post e).rtcInvalid = s.rtcInvalid := rfl
@[simp] theorem State.post_mode (s : State) (e : Event) : (s.post e).mode = s.mode := rfl
@[simp] theorem State.post_ie (s : State) (e : Event) : (s.post e).ie = s.ie := rfl
@[simp] theorem State.post_srcEn (s : State) (e : Event) : (s.post e).srcEn = s.srcEn := rfl
@[simp] theorem State.post_pend (s : State) (e : Event) : (s.post e).pend = s.pend := rfl
@[simp] theorem State.post_inHandler (s : State) (e : Event) : (s.post e).inHandler = s.inHandler := rfl
@[simp] theorem State.post_seqPhase (s : State) (e : Event) : (s.post e).seqPhase = s.seqPhase := rfl
@[simp] theorem State.post_fb (s : State) (e : Event) : (s.post e).fb = s.fb := rfl
@[simp] theorem State.post_drv (s : State) (e : Event) : (s.post e).drv = s.drv := rfl
@[simp] theorem State.post_board (s : State) (e : Event) : (s.post e).board = s.board := rfl
@[simp] theorem State.post_trace (s : State) (e : Event) : (s.post e).trace = s.trace := rfl
@[simp] theorem State.post_port (s : State) (e : Event) : (s.post e).port = s.port := rfl
@[simp] theorem State.post_env (s : State) (e : Event) : (s.post e).env = s.env := rfl
@[simp] theorem State.post_rtcChip (s : State) (e : Event) : (s.post e).rtcChip = s.rtcChip := rfl
@[simp] theorem State.post_displays (s : State) (e : Event) : (s.post e).displays = s.displays := rfl

/-! ### `State.take` -/

@[simp] theorem State.take_time (s : State) : s.take.time = s.time := rfl
@[simp] theorem State.take_scratch (s : State) : s.take.scratch = s.scratch := rfl
@[simp] theorem State.take_redraw (s : State) : s.take.redraw = s.redraw := rfl
@[simp] theorem State.take_rtcInvalid (s : State) : s.take.rtcInvalid = s.rtcInvalid := rfl
@[simp] theorem State.take_mode (s : State) : s.take.mode = s.mode := rfl
@[simp] theorem State.take_ie (s : State) : s.take.ie = s.ie := rfl
@[simp] theorem State.take_srcEn (s : State) : s.take.srcEn = s.srcEn := rfl
@[simp] theorem State.take_pend (s : State) : s.take.pend = s.pend := rfl
@[simp] theorem State.take_inHandler (s : State) : s.take.inHandler = s.inHandler := rfl
@[simp] theorem State.take_seqPhase (s : State) : s.take.seqPhase = s.seqPhase := rfl
@[simp] theorem State.take_fb (s : State) : s.take.fb = s.fb := rfl
@[simp] theorem State.take_drv (s : State) : s.take.drv = s.drv := rfl
@[simp] theorem State.take_board (s : State) : s.take.board = s.board := rfl
@[simp] theorem State.take_trace (s : State) : s.take.trace = s.trace := rfl
@[simp] theorem State.take_port (s : State) : s.take.port = s.port := rfl
@[simp] theorem State.take_env (s : State) : s.take.env = s.env := rfl
@[simp] theorem State.take_rtcChip (s : State) : s.take.rtcChip = s.rtcChip := rfl
@[simp] theorem State.take_displays (s : State) : s.take.displays = s.displays := rfl

/-! ### `State.fbClear` -/

@[simp] theorem State.fbClear_time (s : State) : s.fbClear.time = s.time := rfl
@[simp] theorem State.fbClear_scratch (s : State) : s.fbClear.scratch = s.scratch := rfl
@[simp] theorem State.fbClear_res (s : State) : s.fbClear.res = s.res := rfl
@[simp] theorem State.fbClear_redraw (s : State) : s.fbClear.redraw = s.redraw := rfl
@[simp] theorem State.fbClear_rtcInvalid (s : State) : s.fbClear.rtcInvalid = s.rtcInvalid := rfl
@[simp] theorem State.fbClear_mode (s : State) : s.fbClear.mode = s.mode := rfl
@[simp] theorem State.fbClear_evt (s : State) : s.fbClear.evt = s.evt := rfl
@[simp] theorem State.fbClear_ie (s : State) : s.fbClear.ie = s.ie := rfl
@[simp] theorem State.fbClear_srcEn (s : State) : s.fbClear.srcEn = s.srcEn := rfl
@[simp] theorem State.fbClear_pend (s : State) : s.fbClear.pend = s.pend := rfl
@[simp] theorem State.fbClear_inHandler (s : State) : s.fbClear.inHandler = s.inHandler := rfl
@[simp] theorem State.fbClear_seqPhase (s : State) : s.fbClear.seqPhase = s.seqPhase := rfl
@[simp] theorem State.fbClear_drv (s : State) : s.fbClear.drv = s.drv := rfl
@[simp] theorem State.fbClear_board (s : State) : s.fbClear.board = s.board := rfl
@[simp] theorem State.fbClear_trace (s : State) : s.fbClear.trace = s.trace := rfl
@[simp] theorem State.fbClear_port (s : State) : s.fbClear.port = s.port := rfl
@[simp] theorem State.fbClear_env (s : State) : s.fbClear.env = s.env := rfl
@[simp] theorem State.fbClear_rtcChip (s : State) : s.fbClear.rtcChip = s.rtcChip := rfl
@[simp] theorem State.fbClear_displays (s : State) : s.fbClear.displays = s.displays := rfl

/-! ### `State.fbRender` -/

@[simp] theorem State.fbRender_time (s : State) : s.fbRender.time = s.time := rfl
@[simp] theorem State.fbRender_scratch (s : State) : s.fbRender.scratch = s.scratch := rfl
@[simp] theorem State.fbRender_res (s : State) : s.fbRender.res = s.res := rfl
@[simp] theorem State.fbRender_redraw (s : State) : s.fbRender.redraw = s.redraw := rfl
@[simp] theorem State.fbRender_rtcInvalid (s : State) : s.fbRender.rtcInvalid = s.rtcInvalid := rfl
@[simp] theorem State.fbRender_mode (s : State) : s.fbRender.mode = s.mode := rfl
@[simp] theorem State.fbRender_evt (s : State) : s.fbRender.evt = s.evt := rfl
@[simp] theorem State.fbRender_ie (s : State) : s.fbRender.ie = s.ie := rfl
@[simp] theorem State.fbRender_srcEn (s : State) : s.fbRender.srcEn = s.srcEn := rfl
@[simp] theorem State.fbRender_pend (s : State) : s.fbRender.pend = s.pend := rfl
@[simp] theorem State.fbRender_inHandler (s : State) : s.fbRender.inHandler = s.inHandler := rfl
@[simp] theorem State.fbRender_seqPhase (s : State) : s.fbRender.seqPhase = s.seqPhase := rfl
@[simp] theorem State.fbRender_drv (s : State) : s.fbRender.drv = s.drv := rfl
@[simp] theorem State.fbRender_board (s : State) : s.fbRender.board = s.board := rfl
@[simp] theorem State.fbRender_trace (s : State) : s.fbRender.trace = s.trace := rfl
@[simp] theorem State.fbRender_port (s : State) : s.fbRender.port = s.port := rfl
@[simp] theorem State.fbRender_env (s : State) : s.fbRender.env = s.env := rfl
@[simp] theorem State.fbRender_rtcChip (s : State) : s.fbRender.rtcChip = s.rtcChip := rfl
@[simp] theorem State.fbRender_displays (s : State) : s.fbRender.displays = s.displays := rfl

/-! ### `State.enable` -/

@[simp] theorem State.enable_time (s : State) : s.enable.time = s.time := rfl
@[simp] theorem State.enable_scratch (s : State) : s.enable.scratch = s.scratch := rfl
@[simp] theorem State.enable_res (s : State) : s.enable.res = s.res := rfl
@[simp] theorem State.enable_redraw (s : State) : s.enable.redraw = s.redraw := rfl
@[simp] theorem State.enable_rtcInvalid (s : State) : s.enable.rtcInvalid = s.rtcInvalid := rfl
@[simp] theorem State.enable_mode (s : State) : s.enable.mode = s.mode := rfl
@[simp] theorem State.enable_evt (s : State) : s.enable.evt = s.evt := rfl
@[simp] theorem State.enable_srcEn (s : State) : s.enable.srcEn = s.srcEn := rfl
@[simp] theorem State.enable_pend (s : State) : s.enable.pend = s.pend := rfl
@[simp] theorem State.enable_inHandler (s : State) : s.enable.inHandler = s.inHandler := rfl
@[simp] theorem State.enable_seqPhase (s : State) : s.enable.seqPhase = s.seqPhase := rfl
@[simp] theorem State.enable_fb (s : State) : s.enable.fb = s.fb := rfl
@[simp] theorem State.enable_drv (s : State) : s.enable.drv = s.drv := rfl
@[simp] theorem State.enable_board (s : State) : s.enable.board = s.board := rfl
@[simp] theorem State.enable_trace (s : State) : s.enable.trace = s.trace := rfl
@[simp] theorem State.enable_port (s : State) : s.enable.port = s.port := rfl
@[simp] theorem State.enable_env (s : State) : s.enable.env = s.env := rfl
@[simp] theorem State.enable_rtcChip (s : State) : s.enable.rtcChip = s.rtcChip := rfl
@[simp] theorem State.enable_displays (s : State) : s.enable.displays = s.displays := rfl

/-! ### `State.disable` -/

@[simp] theorem State.disable_time (s : State) : s.disable.time = s.time := rfl
@[simp] theorem State.disable_scratch (s : State) : s.disable.scratch = s.scratch := rfl
@[simp] theorem State.disable_res (s : State) : s.disable.res = s.res := rfl
@[simp] theorem State.disable_redraw (s : State) : s.disable.redraw = s.redraw := rfl
@[simp] theorem State.disable_rtcInvalid (s : State) : s.disable.rtcInvalid = s.rtcInvalid := rfl
@[simp] theorem State.disable_mode (s : State) : s.disable.mode = s.mode := rfl
@[simp] theorem State.disable_evt (s : State) : s.disable.evt = s.evt := rfl
@[simp] theorem State.disable_srcEn (s : State) : s.disable.srcEn = s.srcEn := rfl
@[simp] theorem State.disable_pend (s : State) : s.disable.pend = s.pend := rfl
@[simp] theorem State.disable_inHandler (s : State) : s.disable.inHandler = s.inHandler := rfl
@[simp] theorem State.disable_seqPhase (s : State) : s.disable.seqPhase = s.seqPhase := rfl
@[simp] theorem State.disable_fb (s : State) : s.disable.fb = s.fb := rfl
@[simp] theorem State.disable_drv (s : State) : s.disable.drv = s.drv := rfl
@[simp] theorem State.disable_board (s : State) : s.disable.board = s.board := rfl
@[simp] theorem State.disable_trace (s : State) : s.disable.trace = s.trace := rfl
@[simp] theorem State.disable_port (s : State) : s.disable.port = s.port := rfl
@[simp] theorem State.disable_env (s : State) : s.disable.env = s.env := rfl
@[simp] theorem State.disable_rtcChip (s : State) : s.disable.rtcChip = s.rtcChip := rfl
@[simp] theorem State.disable_displays (s : State) : s.disable.displays = s.displays := rfl

/-! ### `State.toPhase` -/

@[simp] theorem State.toPhase_time (s : State) (p : Phase) : (s.toPhase p).time = s.time := rfl
@[simp] theorem State.toPhase_scratch (s : State) (p : Phase) : (s.toPhase p).scratch = s.scratch := rfl
@[simp] theorem State.toPhase_res (s : State) (p : Phase) : (s.toPhase p).res = s.res := rfl
@[simp] theorem State.toPhase_redraw (s : State) (p : Phase) : (s.toPhase p).redraw = s.redraw := rfl
@[simp] theorem State.toPhase_rtcInvalid (s : State) (p : Phase) : (s.toPhase p).rtcInvalid = s.rtcInvalid := rfl
@[simp] theorem State.toPhase_mode (s : State) (p : Phase) : (s.toPhase p).mode = s.mode := rfl
@[simp] theorem State.toPhase_evt (s : State) (p : Phase) : (s.toPhase p).evt = s.evt := rfl
@[simp] theorem State.toPhase_ie (s : State) (p : Phase) : (s.toPhase p).ie = s.ie := rfl
@[simp] theorem State.toPhase_srcEn (s : State) (p : Phase) : (s.toPhase p).srcEn = s.srcEn := rfl
@[simp] theorem State.toPhase_pend (s : State) (p : Phase) : (s.toPhase p).pend = s.pend := rfl
@[simp] theorem State.toPhase_inHandler (s : State) (p : Phase) : (s.toPhase p).inHandler = s.inHandler := rfl
@[simp] theorem State.toPhase_fb (s : State) (p : Phase) : (s.toPhase p).fb = s.fb := rfl
@[simp] theorem State.toPhase_drv (s : State) (p : Phase) : (s.toPhase p).drv = s.drv := rfl
@[simp] theorem State.toPhase_board (s : State) (p : Phase) : (s.toPhase p).board = s.board := rfl
@[simp] theorem State.toPhase_trace (s : State) (p : Phase) : (s.toPhase p).trace = s.trace := rfl
@[simp] theorem State.toPhase_port (s : State) (p : Phase) : (s.toPhase p).port = s.port := rfl
@[simp] theorem State.toPhase_env (s : State) (p : Phase) : (s.toPhase p).env = s.env := rfl
@[simp] theorem State.toPhase_rtcChip (s : State) (p : Phase) : (s.toPhase p).rtcChip = s.rtcChip := rfl
@[simp] theorem State.toPhase_displays (s : State) (p : Phase) : (s.toPhase p).displays = s.displays := rfl

/-! ### `State.snapshot` -/

@[simp] theorem State.snapshot_time (s : State) : s.snapshot.time = s.time := rfl
@[simp] theorem State.snapshot_res (s : State) : s.snapshot.res = s.res := rfl
@[simp] theorem State.snapshot_redraw (s : State) : s.snapshot.redraw = s.redraw := rfl
@[simp] theorem State.snapshot_rtcInvalid (s : State) : s.snapshot.rtcInvalid = s.rtcInvalid := rfl
@[simp] theorem State.snapshot_mode (s : State) : s.snapshot.mode = s.mode := rfl
@[simp] theorem State.snapshot_evt (s : State) : s.snapshot.evt = s.evt := rfl
@[simp] theorem State.snapshot_ie (s : State) : s.snapshot.ie = s.ie := rfl
@[simp] theorem State.snapshot_srcEn (s : State) : s.snapshot.srcEn = s.srcEn := rfl
@[simp] theorem State.snapshot_pend (s : State) : s.snapshot.pend = s.pend := rfl
@[simp] theorem State.snapshot_inHandler (s : State) : s.snapshot.inHandler = s.inHandler := rfl
@[simp] theorem State.snapshot_seqPhase (s : State) : s.snapshot.seqPhase = s.seqPhase := rfl
@[simp] theorem State.snapshot_fb (s : State) : s.snapshot.fb = s.fb := rfl
@[simp] theorem State.snapshot_drv (s : State) : s.snapshot.drv = s.drv := rfl
@[simp] theorem State.snapshot_board (s : State) : s.snapshot.board = s.board := rfl
@[simp] theorem State.snapshot_trace (s : State) : s.snapshot.trace = s.trace := rfl
@[simp] theorem State.snapshot_port (s : State) : s.snapshot.port = s.port := rfl
@[simp] theorem State.snapshot_env (s : State) : s.snapshot.env = s.env := rfl
@[simp] theorem State.snapshot_rtcChip (s : State) : s.snapshot.rtcChip = s.rtcChip := rfl
@[simp] theorem State.snapshot_displays (s : State) : s.snapshot.displays = s.displays := rfl

/-! ### `State.offer` -/

@[simp] theorem State.offer_time (s : State) (w : CmdWord) : (s.offer w).time = s.time := rfl
@[simp] theorem State.offer_scratch (s : State) (w : CmdWord) : (s.offer w).scratch = s.scratch := rfl
@[simp] theorem State.offer_res (s : State) (w : CmdWord) : (s.offer w).res = s.res := rfl
@[simp] theorem State.offer_redraw (s : State) (w : CmdWord) : (s.offer w).redraw = s.redraw := rfl
@[simp] theorem State.offer_rtcInvalid (s : State) (w : CmdWord) : (s.offer w).rtcInvalid = s.rtcInvalid := rfl
@[simp] theorem State.offer_mode (s : State) (w : CmdWord) : (s.offer w).mode = s.mode := rfl
@[simp] theorem State.offer_evt (s : State) (w : CmdWord) : (s.offer w).evt = s.evt := rfl
@[simp] theorem State.offer_ie (s : State) (w : CmdWord) : (s.offer w).ie = s.ie := rfl
@[simp] theorem State.offer_srcEn (s : State) (w : CmdWord) : (s.offer w).srcEn = s.srcEn := rfl
@[simp] theorem State.offer_pend (s : State) (w : CmdWord) : (s.offer w).pend = s.pend := rfl
@[simp] theorem State.offer_inHandler (s : State) (w : CmdWord) : (s.offer w).inHandler = s.inHandler := rfl
@[simp] theorem State.offer_seqPhase (s : State) (w : CmdWord) : (s.offer w).seqPhase = s.seqPhase := rfl
@[simp] theorem State.offer_fb (s : State) (w : CmdWord) : (s.offer w).fb = s.fb := rfl
@[simp] theorem State.offer_drv (s : State) (w : CmdWord) : (s.offer w).drv = s.drv := rfl
@[simp] theorem State.offer_board (s : State) (w : CmdWord) : (s.offer w).board = s.board := rfl
@[simp] theorem State.offer_trace (s : State) (w : CmdWord) : (s.offer w).trace = s.trace := rfl
@[simp] theorem State.offer_env (s : State) (w : CmdWord) : (s.offer w).env = s.env := rfl
@[simp] theorem State.offer_rtcChip (s : State) (w : CmdWord) : (s.offer w).rtcChip = s.rtcChip := rfl
@[simp] theorem State.offer_displays (s : State) (w : CmdWord) : (s.offer w).displays = s.displays := rfl

/-! ### `State.takeWord` -/

@[simp] theorem State.takeWord_time (s : State) : s.takeWord.time = s.time := rfl
@[simp] theorem State.takeWord_scratch (s : State) : s.takeWord.scratch = s.scratch := rfl
@[simp] theorem State.takeWord_res (s : State) : s.takeWord.res = s.res := rfl
@[simp] theorem State.takeWord_redraw (s : State) : s.takeWord.redraw = s.redraw := rfl
@[simp] theorem State.takeWord_rtcInvalid (s : State) : s.takeWord.rtcInvalid = s.rtcInvalid := rfl
@[simp] theorem State.takeWord_mode (s : State) : s.takeWord.mode = s.mode := rfl
@[simp] theorem State.takeWord_evt (s : State) : s.takeWord.evt = s.evt := rfl
@[simp] theorem State.takeWord_ie (s : State) : s.takeWord.ie = s.ie := rfl
@[simp] theorem State.takeWord_srcEn (s : State) : s.takeWord.srcEn = s.srcEn := rfl
@[simp] theorem State.takeWord_pend (s : State) : s.takeWord.pend = s.pend := rfl
@[simp] theorem State.takeWord_inHandler (s : State) : s.takeWord.inHandler = s.inHandler := rfl
@[simp] theorem State.takeWord_seqPhase (s : State) : s.takeWord.seqPhase = s.seqPhase := rfl
@[simp] theorem State.takeWord_fb (s : State) : s.takeWord.fb = s.fb := rfl
@[simp] theorem State.takeWord_drv (s : State) : s.takeWord.drv = s.drv := rfl
@[simp] theorem State.takeWord_board (s : State) : s.takeWord.board = s.board := rfl
@[simp] theorem State.takeWord_trace (s : State) : s.takeWord.trace = s.trace := rfl
@[simp] theorem State.takeWord_env (s : State) : s.takeWord.env = s.env := rfl
@[simp] theorem State.takeWord_rtcChip (s : State) : s.takeWord.rtcChip = s.rtcChip := rfl
@[simp] theorem State.takeWord_displays (s : State) : s.takeWord.displays = s.displays := rfl

/-! ### The fields that are written -/

@[simp] theorem State.drive_drv (s : State) (ws : List (Line × Drive)) : (s.drive ws).drv = driveAll s.drv ws := rfl
@[simp] theorem State.drive_trace (s : State) (ws : List (Line × Drive)) : (s.drive ws).trace = s.trace ++ wroteAll ws := rfl
@[simp] theorem State.leaveHandler_inHandler (s : State) : s.leaveHandler.inHandler = false := rfl
@[simp] theorem State.enterHandler_inHandler (s : State) (src : Source) : (s.enterHandler src).inHandler = true := rfl
@[simp] theorem State.post_evt (s : State) (e : Event) : (s.post e).evt = e := rfl
@[simp] theorem State.take_evt (s : State) : s.take.evt = .none := rfl
@[simp] theorem State.take_res (s : State) : s.take.res = (eventCode s.evt).setWidth 8 := rfl
@[simp] theorem State.fbClear_fb (s : State) : s.fbClear.fb = [] := rfl
@[simp] theorem State.fbRender_fb (s : State) : s.fbRender.fb = render s.board s.mode s.time s.scratch s.fb := rfl
@[simp] theorem State.enable_ie (s : State) : s.enable.ie = true := rfl
@[simp] theorem State.disable_ie (s : State) : s.disable.ie = false := rfl
@[simp] theorem State.toPhase_seqPhase (s : State) (p : Phase) : (s.toPhase p).seqPhase = p := rfl
@[simp] theorem State.offer_port (s : State) (w : CmdWord) : (s.offer w).port = w :: s.port := rfl
@[simp] theorem State.takeWord_port (s : State) : s.takeWord.port = s.port.tail := rfl
@[simp] theorem State.afterRead_trace (s : State) (l : Line) :
    (s.afterRead l).trace = s.trace ++ [.sampled l (s.readsAs l)] := by
  unfold State.afterRead State.beforeRead
  split <;> rfl
@[simp] theorem State.pinRead_res (s : State) (l : Line) :
    (s.pinRead l).res = (BitVec.ofBool (s.readsAs l)).setWidth 8 := rfl

end Sys2Proof.Machine
end

