-- ==== Sys2Proof/Laws/Ops.lean ====
section
/-! SUPPORT. What the shared operations can do, said once each: driving lines, reading a line, the environment's chance to act,
the hold, a handler. -/

namespace Sys2Proof.Machine

/-! ### Driving -/

@[simp] theorem driveAll_nil (d : LineMap Drive) : driveAll d [] = d := rfl

@[simp] theorem driveAll_cons (d : LineMap Drive) (w : Line × Drive) (ws : List (Line × Drive)) :
    driveAll d (w :: ws) = driveAll (lineSet d w.1 w.2) ws := rfl

theorem driveAll_append (d : LineMap Drive) (a b : List (Line × Drive)) :
    driveAll d (a ++ b) = driveAll (driveAll d a) b := by simp [driveAll]

@[simp] theorem wroteAll_append (a b : List (Line × Drive)) : wroteAll (a ++ b) = wroteAll a ++ wroteAll b := by
  simp [wroteAll]

@[simp] theorem length_wroteAll (ws : List (Line × Drive)) : (wroteAll ws).length = ws.length := by simp [wroteAll]

theorem displayRun_append (b : Config.Board) (float : Nat → List (LineMap Bool)) (n : Nat) (k : Chip) (drv : LineMap Drive)
    (d : Config.DisplayChip) (u v : List (Line × Drive)) :
    displayRun b float n k drv d (u ++ v)
      = displayRun b float (n + u.length) k (driveAll drv u) (displayRun b float n k drv d u) v := by
  induction u generalizing n drv d with
  | nil => rfl
  | cons w u ih =>
    rw [List.length_cons, Nat.add_comm u.length 1, ← Nat.add_assoc]
    exact ih (n + 1) _ _

theorem rtcRun_append (b : Config.Board) (held : LineMap Bool) (drv : LineMap Drive) (c : Config.RtcChip)
    (u v : List (Line × Drive)) :
    rtcRun b held drv c (u ++ v) = rtcRun b held (driveAll drv u) (rtcRun b held drv c u) v := by
  induction u generalizing drv c with
  | nil => rfl
  | cons w u ih => exact ih _ _

theorem nineOf_nineGet {α : Type} (n : Nine α) : nineOf (nineGet n) = n := rfl

@[simp] theorem State.drive_nil (s : State) : s.drive [] = s := by
  cases s
  simp only [State.drive, driveAll_nil, List.map_nil, List.append_nil, rtcRun, displayRun]
  congr 1

/-- Two sequences of writes one after the other are one sequence: composite operations are their expansions (rule R101). -/
theorem State.drive_append (s : State) (a b : List (Line × Drive)) : s.drive (a ++ b) = (s.drive a).drive b := by
  simp only [State.drive, driveAll_append, List.map_append, List.append_assoc, rtcRun_append, displayRun_append,
    nineGet_nineOf, List.length_append, List.length_map]

/-- What a sequence of writes can change. -/
theorem drive_onlyDrives (s : State) (ws : List (Line × Drive)) : OnlyDrives s (s.drive ws) := rfl

/-- A line that a sequence of writes does not name keeps its driver state. -/
theorem lineGet_driveAll_of_notMem (ws : List (Line × Drive)) (d : LineMap Drive) (l : Line) (h : ∀ w ∈ ws, w.1 ≠ l) :
    lineGet (driveAll d ws) l = lineGet d l := by
  induction ws generalizing d with
  | nil => rfl
  | cons w ws ih =>
    rw [driveAll_cons, ih _ fun x hx => h x (by simp [hx]), lineGet_lineSet, if_neg (Ne.symm (h w (by simp)))]

/-! ### The chips -/

/-- Levels that do not change are no edge to a display chip. -/
@[simp] theorem displayEdge_same (b : Config.Board) (d : Config.DisplayChip) (data clk : Bool) :
    displayEdge b d data clk data clk = d := by
  cases data <;> cases clk <;> simp [displayEdge]

/-- Levels that do not change are no edge to the RTC chip. -/
@[simp] theorem rtcEdge_same (b : Config.Board) (c : Config.RtcChip) (scl sda : Bool) : rtcEdge b c scl sda scl sda = c := by
  cases scl <;> cases sda <;> simp [rtcEdge]

/-- A display chip's memory in its canonical form and inside its 16 bytes. -/
def DisplayWf (d : Config.DisplayChip) : Prop := memWf d.mem = true ∧ memBelow 16 d.mem = true

/-- The RTC chip's register file in its canonical form and inside its 256 bytes. -/
def RtcWf (c : Config.RtcChip) : Prop := memWf c.regs = true ∧ memBelow 256 c.regs = true

theorem displayByte_wf (b : Config.Board) (d : Config.DisplayChip) (v : Byte) (h : DisplayWf d) : DisplayWf (displayByte b d v) := by
  unfold displayByte
  split
  · exact h
  · by_cases ha : d.addr < 16
    · simp only [ha, if_true]
      exact ⟨memWf_memWrite _ _ _ h.1, memBelow_memWrite _ _ _ _ h.2 ha⟩
    · simp only [ha, if_false]
      exact h

/-- No edge takes a display chip's memory out of its form. -/
theorem displayEdge_wf (b : Config.Board) (d : Config.DisplayChip) (d0 c0 d1 c1 : Bool) (h : DisplayWf d) :
    DisplayWf (displayEdge b d d0 c0 d1 c1) := by
  unfold displayEdge
  split
  · exact h
  · split
    · exact h
    · split
      · unfold displayBit
        split
        · exact displayByte_wf _ _ _ h
        · exact h
      · exact h

theorem displayGoes_wf (b : Config.Board) (d : Config.DisplayChip) (l0 l1 : Bool × Bool) (h : DisplayWf d) :
    DisplayWf (displayGoes b d l0 l1) := displayEdge_wf b d l0.1 l0.2 l1.1 l1.2 h

/-- A display chip whose two lines are driven does not float. -/
theorem displayFloats_of_driven (b : Config.Board) (k : Chip) (drv : LineMap Drive) (levels : List (LineMap Bool))
    (d : Config.DisplayChip) (hd : lineGet drv .ddData ≠ .z) (hc : lineGet drv (.ddClk k) ≠ .z) :
    displayFloats b k drv levels d = d := by
  simp [displayFloats, hd, hc]

theorem displayFloats_wf (b : Config.Board) (k : Chip) (drv : LineMap Drive) (levels : List (LineMap Bool)) (d : Config.DisplayChip)
    (h : DisplayWf d) : DisplayWf (displayFloats b k drv levels d) := by
  unfold displayFloats
  split
  · induction levels generalizing d with
    | nil => exact h
    | cons x levels ih => exact ih _ (displayGoes_wf _ _ _ _ h)
  · exact h

/-- No sequence of writes takes a display chip's memory out of its form. -/
theorem displayRun_wf (b : Config.Board) (float : Nat → List (LineMap Bool)) (n : Nat) (k : Chip) (drv : LineMap Drive)
    (d : Config.DisplayChip) (ws : List (Line × Drive)) (h : DisplayWf d) : DisplayWf (displayRun b float n k drv d ws) := by
  induction ws generalizing n drv d with
  | nil => exact h
  | cons w ws ih => exact ih _ _ _ (displayFloats_wf _ _ _ _ _ (displayGoes_wf _ _ _ _ h))

/-- No batch of events takes a display chip's memory out of its form. -/
theorem displayThrough_wf (b : Config.Board) (drv : LineMap Drive) (k : Chip) (d : Config.DisplayChip) (es : List EnvEvent)
    (h : DisplayWf d) : DisplayWf (displayThrough b drv k d es) := by
  induction es generalizing d with
  | nil => exact h
  | cons e es ih => exact ih _ (displayGoes_wf _ _ _ _ h)

/-- No edge takes the RTC chip's register file out of its form. -/
theorem rtcEdge_wf (b : Config.Board) (c : Config.RtcChip) (c0 d0 c1 d1 : Bool) (h : RtcWf c) : RtcWf (rtcEdge b c c0 d0 c1 d1) := by
  have hw : RtcWf { c with regs := memWrite c.regs c.ptr.toNat c.shift, ptr := c.ptr + 1, low := true } :=
    ⟨memWf_memWrite _ _ _ h.1, memBelow_memWrite _ _ _ _ h.2 c.ptr.isLt⟩
  unfold rtcEdge rtcRise rtcFall
  repeat' split
  all_goals first
    | exact h
    | exact hw

/-- No sequence of writes takes the RTC chip's register file out of its form. -/
theorem rtcRun_wf (b : Config.Board) (held : LineMap Bool) (drv : LineMap Drive) (c : Config.RtcChip) (ws : List (Line × Drive))
    (h : RtcWf c) : RtcWf (rtcRun b held drv c ws) := by
  induction ws generalizing drv c with
  | nil => exact h
  | cons w ws ih => exact ih _ _ (rtcEdge_wf _ _ _ _ _ _ h)

/-- No batch of events takes the RTC chip's register file out of its form. -/
theorem rtcThrough_wf (b : Config.Board) (drv : LineMap Drive) (held : LineMap Bool) (c : Config.RtcChip) (es : List EnvEvent)
    (h : RtcWf c) : RtcWf (rtcThrough b drv held c es) := by
  induction es generalizing held c with
  | nil => exact h
  | cons e es ih =>
    refine ih _ _ ?_
    have hm : RtcWf (rtcMoves b held (heldAfter held e) drv drv c) := rtcEdge_wf _ _ _ _ _ _ h
    cases e with
    | rtcReg a v => exact ⟨memWf_memWrite _ _ _ hm.1, memBelow_memWrite _ _ _ _ hm.2 a.isLt⟩
    | rtcAnswers _ | timerOverflow | holdLow _ | letGo _ => exact hm

/-! ### Line activity -/

theorem PendGrows.refl (s : State) : PendGrows s s := ⟨id, id, .inl, .inl⟩

theorem PendGrows.of_eq {s t : State} (h : t.pend = s.pend) : PendGrows s t := by
  simp only [PendGrows, h]
  exact ⟨id, id, .inl, .inl⟩

theorem PendGrows.trans {s t u : State} (he : t.srcEn = s.srcEn) (h1 : PendGrows s t) (h2 : PendGrows t u) : PendGrows s u := by
  obtain ⟨a1, a2, a3, a4⟩ := h1
  obtain ⟨b1, b2, b3, b4⟩ := h2
  rw [he] at b3 b4
  exact ⟨fun h => b1 (a1 h), fun h => b2 (a2 h), fun h => (b3 h).elim a3 .inr, fun h => (b4 h).elim a4 .inr⟩

theorem LineActivity.refl (s : State) : LineActivity s s := ⟨rfl, .refl s⟩

theorem LineActivity.trans {s t u : State} (h1 : LineActivity s t) (h2 : LineActivity t u) : LineActivity s u := by
  obtain ⟨e1, p1⟩ := h1
  obtain ⟨e2, p2⟩ := h2
  refine ⟨?_, p1.trans (by rw [e1]) p2⟩
  rw [e2, e1]

theorem OnlyDrives.lineActivity {s t : State} (h : OnlyDrives s t) : LineActivity s t := by
  have hp : t.pend = s.pend := by rw [h]
  have he : t.env = s.env := by rw [h]
  refine ⟨?_, .of_eq hp⟩
  rw [hp, he]
  exact h

theorem drive_lineActivity (s : State) (ws : List (Line × Drive)) : LineActivity s (s.drive ws) :=
  (drive_onlyDrives s ws).lineActivity

/-- What a batch of environment events does to the latches, rules R35, R272, R273. -/
theorem absorb_pendGrows (s : State) (es : List EnvEvent) : PendGrows s (s.absorb es) := by
  refine ⟨fun h => ?_, fun h => ?_, fun h => ?_, fun h => ?_⟩
  · simp [State.absorb, h]
  · simp [State.absorb, h]
  · simp only [State.absorb, Bool.or_eq_true, Bool.and_eq_true] at h
    exact h.imp_right And.left
  · simp only [State.absorb, Bool.or_eq_true, Bool.and_eq_true] at h
    exact h.imp_right And.left

/-- The environment's chance to act changes latches, the environment and the RTC chip's registers only. -/
theorem arrive_lineActivity (s : State) : LineActivity s s.arrive := ⟨rfl, absorb_pendGrows { s with env := s.env.afterBatch } _⟩

theorem beforeRead_lineActivity (s : State) (l : Line) : LineActivity s (s.beforeRead l) := by
  unfold State.beforeRead
  split
  · exact arrive_lineActivity s
  · exact .refl s

/-- `read(L)` changes no register of the block. -/
theorem afterRead_lineActivity (s : State) (l : Line) : LineActivity s (s.afterRead l) :=
  (beforeRead_lineActivity s l).trans ⟨rfl, .of_eq rfl⟩

theorem rxBit_lineActivity (s : State) : LineActivity s s.rxBit :=
  ((drive_lineActivity s _).trans (afterRead_lineActivity _ _)).trans (drive_lineActivity _ _)

theorem rxState_lineActivity (n : Nat) (s : State) : LineActivity s (rxState n s) := by
  induction n generalizing s with
  | zero => exact .refl s
  | succ n ih => exact (rxBit_lineActivity s).trans (ih s.rxBit)

/-- A read of a driven line is the driven value and lets nothing happen, rule R122. -/
theorem beforeRead_of_driven (s : State) (l : Line) (h : lineGet s.drv l ≠ .z) : s.beforeRead l = s := by
  unfold State.beforeRead
  rw [if_neg h]

theorem beforeRead_of_released (s : State) (l : Line) (h : lineGet s.drv l = .z) : s.beforeRead l = s.arrive := by
  unfold State.beforeRead
  rw [if_pos h]

/-! ### Receiving a byte -/

/-- The levels the next `n` bits are sampled at, first bit first. -/
def rxSamples (n : Nat) (s : State) : List Bool :=
  match n with
  | 0 => []
  | n + 1 => s.rxSample :: rxSamples n s.rxBit

@[simp] theorem length_rxSamples (n : Nat) (s : State) : (rxSamples n s).length = n := by
  induction n generalizing s with
  | zero => rfl
  | succ n ih => simp [rxSamples, ih]

/-- The value received is made of the samples, the first the most significant. -/
theorem rxValue_eq_foldl (n : Nat) (v : Byte) (s : State) :
    rxValue n v s = (rxSamples n s).foldl (fun (v : Byte) (b : Bool) => (v <<< 1) ||| (BitVec.ofBool b).setWidth 8) v := by
  induction n generalizing v s with
  | zero => rfl
  | succ n ih => exact ih _ _

/-- The trace of the received bits: rise, sample, fall for each. -/
theorem rxState_trace (n : Nat) (s : State) :
    (rxState n s).trace =
      s.trace ++ (rxSamples n s).flatMap fun b => [.wrote .rtcScl .high, .sampled .rtcSda b, .wrote .rtcScl .low] := by
  induction n generalizing s with
  | zero => simp [rxState, rxSamples]
  | succ n ih =>
    simp only [rxState, rxSamples, ih, List.flatMap_cons]
    simp [State.rxBit, State.rxSample, wroteAll]

/-! ### The hold and a handler -/

theorem holdScript_lineActivity (sc : List (List EnvEvent)) (s : State) : LineActivity s (holdScript sc s) := by
  induction sc generalizing s with
  | nil => exact .refl s
  | cons b sc ih =>
    unfold holdScript
    split
    · exact .refl s
    · exact (arrive_lineActivity s).trans (ih _)

/-- A hold that ends leaves a source pending and has changed no register but latches, rule R241. -/
theorem hold_some {s t : State} (h : s.hold = some t) : LineActivity s t ∧ t.anyPending = true := by
  unfold State.hold at h
  simp only at h
  split at h
  · rename_i hp
    cases h
    exact ⟨holdScript_lineActivity _ s, hp⟩
  · split at h
    · rename_i hp
      cases h
      exact ⟨(holdScript_lineActivity _ s).trans (arrive_lineActivity _), hp⟩
    · split at h
      · rename_i he
        cases h
        refine ⟨((holdScript_lineActivity _ s).trans (arrive_lineActivity _)).trans ⟨rfl, absorb_pendGrows _ _⟩, ?_⟩
        rw [State.arrive_srcEn] at he
        simp [State.anyPending, State.absorb, he]
      · cases h

/-- If a source is pending the hold is empty, rule R241. -/
theorem hold_of_pending (s : State) (h : s.anyPending = true) : s.hold = some s := by
  have hs : holdScript s.env.script s = s := by
    cases s.env.script with
    | nil => rfl
    | cons b sc => simp [holdScript, h]
  simp [State.hold, hs, h]

/-- With the timer enabled every hold ends, rule R332. -/
theorem hold_isSome_of_timer (s : State) (h : s.srcEn.timer = true) : s.hold.isSome = true := by
  have he : (holdScript s.env.script s).srcEn = s.srcEn := by rw [(holdScript_lineActivity s.env.script s).1]
  unfold State.hold
  simp only
  split
  · rfl
  · split
    · rfl
    · simp [he, h]

/-! ### RES and the mailbox: no operation that moves a line depends on them -/

/-- `s` with another RES and another mailbox: what EVT.TAKE makes of it. -/
def State.withMail (s : State) (r : Byte) (e : Event) : State := { s with res := r, evt := e }

theorem take_eq_withMail (s : State) : s.take = s.withMail ((eventCode s.evt).setWidth 8) .none := rfl

theorem withMail_self (s : State) : s.withMail s.res s.evt = s := rfl

theorem withMail_withMail (s : State) (r r' : Byte) (e e' : Event) : (s.withMail r e).withMail r' e' = s.withMail r' e' := rfl

theorem drive_withMail (s : State) (r : Byte) (e : Event) (ws : List (Line × Drive)) :
    (s.withMail r e).drive ws = (s.drive ws).withMail r e := rfl

theorem arrive_withMail (s : State) (r : Byte) (e : Event) : (s.withMail r e).arrive = s.arrive.withMail r e := rfl

theorem beforeRead_withMail (s : State) (r : Byte) (e : Event) (l : Line) :
    (s.withMail r e).beforeRead l = (s.beforeRead l).withMail r e := by
  show (if lineGet s.drv l = .z then (s.withMail r e).arrive else s.withMail r e) = _
  unfold State.beforeRead
  split <;> rfl

theorem readsAs_withMail (s : State) (r : Byte) (e : Event) (l : Line) : (s.withMail r e).readsAs l = s.readsAs l := by
  simp only [State.readsAs, beforeRead_withMail]
  rfl

theorem afterRead_withMail (s : State) (r : Byte) (e : Event) (l : Line) :
    (s.withMail r e).afterRead l = (s.afterRead l).withMail r e := by
  simp only [State.afterRead, beforeRead_withMail, readsAs_withMail]
  rfl

theorem rxBit_withMail (s : State) (r : Byte) (e : Event) : (s.withMail r e).rxBit = s.rxBit.withMail r e := by
  simp only [State.rxBit, drive_withMail, afterRead_withMail]

theorem rxState_withMail (n : Nat) (s : State) (r : Byte) (e : Event) :
    rxState n (s.withMail r e) = (rxState n s).withMail r e := by
  induction n generalizing s with
  | zero => rfl
  | succ n ih => rw [rxState, rxBit_withMail, ih, rxState]

theorem rxValue_withMail (n : Nat) (v : Byte) (s : State) (r : Byte) (e : Event) :
    rxValue n v (s.withMail r e) = rxValue n v s := by
  induction n generalizing v s with
  | zero => rfl
  | succ n ih => simp only [rxValue, State.rxSample, drive_withMail, readsAs_withMail, rxBit_withMail, ih]

/-- RTC.RX is its line activity and the byte in RES. -/
theorem rx_eq (s : State) (ack : Bool) :
    s.rx ack = ((rxState 8 (s.drive [(.rtcSda, .z)])).drive (ackWrites ack)).withMail s.rxByte s.evt := by
  have h : (rxState 8 (s.drive [(.rtcSda, .z)])).evt = s.evt := by
    rw [(rxState_lineActivity 8 (s.drive [(.rtcSda, .z)])).1]; rfl
  unfold State.rx State.withMail
  simp only [State.drive_evt, h]

theorem rx_withMail (s : State) (r : Byte) (e : Event) (ack : Bool) :
    (s.withMail r e).rx ack = (s.rx ack).withMail s.rxByte e := by
  have hb : (s.withMail r e).rxByte = s.rxByte := by simp only [State.rxByte, drive_withMail, rxValue_withMail]
  simp only [rx_eq, hb, drive_withMail, rxState_withMail, withMail_withMail]
  rfl

theorem settle_withMail (s : State) (r : Byte) (e : Event) (new : TimeOfDay) :
    (s.withMail r e).settle new = (s.settle new).withMail r e := by
  unfold State.settle
  split <;> rfl

/-- RTC.GETTIME depends on neither RES nor the mailbox, and writes RES. -/
theorem getTime_withMail (s : State) (r : Byte) (e : Event) :
    (s.withMail r e).getTime = s.getTime.withMail s.getTime.res e := by
  have hm : (s.withMail r e).rxMinutes = s.rxMinutes.withMail s.rxMinutes.res e := by
    show ((s.withMail r e).drive (beginWrites s.board .read s.board.regMinutes)).rx true = _
    rw [drive_withMail, rx_withMail]
    rfl
  have hh : (s.withMail r e).rxHours = s.rxHours.withMail s.rxHours.res e := by
    show (s.withMail r e).rxMinutes.rx false = _
    rw [hm, rx_withMail]
    rfl
  have hr : s.getTime.res = s.rxHours.res := by simp only [State.getTime, State.settle_res, State.drive_res]
  rw [hr]
  show ((s.withMail r e).rxHours.drive rtcStopWrites).settle
    (decodeTime (s.withMail r e).rxMinutes.res (s.withMail r e).rxHours.res) = _
  rw [hm, hh, drive_withMail, settle_withMail]
  rfl

/-- RTC.SETTIME depends on neither RES nor the mailbox. -/
theorem setTime_withMail (s : State) (r : Byte) (e : Event) : (s.withMail r e).setTime = s.setTime.withMail r e := by
  unfold State.setTime
  rw [drive_withMail]
  rfl

end Sys2Proof.Machine
end

