-- ==== Sys2Proof/Laws/PerInstr.lean ====
section
/-! SUPPORT. One statement per operation: its encoding matches its own row of the opcode table (rule R94: `w & mask = match`). -/

namespace Sys2Proof.Laws.RowMatch

-- one kernel check at a time: waiting threads cost memory
set_option Elab.async false

/-- The encoded operation matches its row of the opcode table. -/
def Statement (i : Instr) : Prop := encode i &&& rowMask i = rowMatch i

theorem pinSet (line : BitVec 8) : Statement (.pinSet line) := by
  revert line
  unfold Statement
  decide +kernel

theorem pinClr (line : BitVec 8) : Statement (.pinClr line) := by
  revert line
  unfold Statement
  decide +kernel

theorem pinRead (line : BitVec 8) : Statement (.pinRead line) := by
  revert line
  unfold Statement
  decide +kernel

theorem pinTri (line : BitVec 8) : Statement (.pinTri line) := by
  revert line
  unfold Statement
  decide +kernel

theorem ddStart (chip : BitVec 4) : Statement (.ddStart chip) := by
  revert chip
  unfold Statement
  decide +kernel

theorem ddStop (chip : BitVec 4) : Statement (.ddStop chip) := by
  revert chip
  unfold Statement
  decide +kernel

theorem ddBit (chip : BitVec 4) (bit : Bool) : Statement (.ddBit chip bit) := by
  revert chip bit
  unfold Statement
  decide +kernel

theorem ddByte (chip : BitVec 4) (byte : Byte) : Statement (.ddByte chip byte) := by
  revert chip byte
  unfold Statement
  decide +kernel

theorem ddFrame (chip : BitVec 4) : Statement (.ddFrame chip) := by
  revert chip
  unfold Statement
  decide +kernel

theorem ddPresent : Statement .ddPresent := by
  unfold Statement
  decide

theorem ddAllon : Statement .ddAllon := by
  unfold Statement
  decide

theorem rtcStart : Statement .rtcStart := by
  unfold Statement
  decide

theorem rtcStop : Statement .rtcStop := by
  unfold Statement
  decide

theorem rtcTx (byte : Byte) : Statement (.rtcTx byte) := by
  revert byte
  unfold Statement
  decide +kernel

theorem rtcRx (ack : Bool) : Statement (.rtcRx ack) := by
  revert ack
  unfold Statement
  decide +kernel

theorem rtcBegin (dir : Dir) (reg : Byte) : Statement (.rtcBegin dir reg) := by
  revert reg
  unfold Statement
  cases dir <;> decide +kernel

theorem rtcGettime : Statement .rtcGettime := by
  unfold Statement
  decide

theorem rtcSettime : Statement .rtcSettime := by
  unfold Statement
  decide

theorem rtcInit : Statement .rtcInit := by
  unfold Statement
  decide

theorem fbClear : Statement .fbClear := by
  unfold Statement
  decide

theorem fbBigchar (glyph : BitVec 4) (col : BitVec 5) : Statement (.fbBigchar glyph col) := by
  revert glyph col
  unfold Statement
  decide +kernel

theorem fbRender : Statement .fbRender := by
  unfold Statement
  decide

theorem seqBoot : Statement .seqBoot := by
  unfold Statement
  decide

theorem seqIter : Statement .seqIter := by
  unfold Statement
  decide

theorem seqWait : Statement .seqWait := by
  unfold Statement
  decide

theorem seqDispatch : Statement .seqDispatch := by
  unfold Statement
  decide

theorem seqSelftest : Statement .seqSelftest := by
  unfold Statement
  decide

theorem evtPost (event : BitVec 3) : Statement (.evtPost event) := by
  revert event
  unfold Statement
  decide +kernel

theorem evtTake : Statement .evtTake := by
  unfold Statement
  decide

end Sys2Proof.Laws.RowMatch
end

