-- ==== Sys2Proof/Tests/Slice0.lean ====
section
/-! SUPPORT. Tests of the model: expected results are the spec's own (95_test_vectors.md; V, S and P numbers are its vectors),
with the reference parameters where a vector uses them. -/

namespace Sys2Proof.Tests

-- one kernel check at a time: waiting threads cost memory
set_option Elab.async false

open Sys2Proof.Machine

/-! ### Decoding: a word written out from the encoding for every operation (rules R91, R94, R100, V60) -/

theorem test_decode_pin :
    decode 0x01000013 = .ok (.pinSet 0x13) ∧ decode 0x02000000 = .ok (.pinClr 0x00) ∧ decode 0x03000031 = .ok (.pinRead 0x31)
      ∧ decode 0x04000021 = .ok (.pinTri 0x21) := by decide

theorem test_decode_display :
    decode 0x10000008 = .ok (.ddStart 8) ∧ decode 0x11000002 = .ok (.ddStop 2) ∧ decode 0x12000103 = .ok (.ddBit 3 true)
      ∧ decode 0x1300C008 = .ok (.ddByte 8 0xC0) ∧ decode 0x14000004 = .ok (.ddFrame 4) ∧ decode 0x15000000 = .ok .ddPresent
      ∧ decode 0x16000000 = .ok .ddAllon := by decide

theorem test_decode_rtc :
    decode 0x20000000 = .ok .rtcStart ∧ decode 0x21000000 = .ok .rtcStop ∧ decode 0x22005200 = .ok (.rtcTx 0x52)
      ∧ decode 0x23000001 = .ok (.rtcRx true) ∧ decode 0x24000101 = .ok (.rtcBegin .read 0x01)
      ∧ decode 0x25000000 = .ok .rtcGettime ∧ decode 0x26000000 = .ok .rtcSettime ∧ decode 0x27000000 = .ok .rtcInit := by
  decide

theorem test_decode_fb :
    decode 0x30000000 = .ok .fbClear ∧ decode 0x31000E07 = .ok (.fbBigchar 7 14) ∧ decode 0x32000000 = .ok .fbRender := by
  decide

theorem test_decode_seq :
    decode 0x40000000 = .ok .seqBoot ∧ decode 0x41000000 = .ok .seqIter ∧ decode 0x42000000 = .ok .seqWait
      ∧ decode 0x43000000 = .ok .seqDispatch ∧ decode 0x44000000 = .ok .seqSelftest := by decide

theorem test_decode_evt : decode 0x50000004 = .ok (.evtPost 4) ∧ decode 0x51000000 = .ok .evtTake := by decide

/-- V61, V18, V36: reserved words, by reason. -/
theorem test_reserved_opcode :
    [0x00000000, 0xFFFFFFFF, 0x05000000, 0x17000000, 0x28000000, 0x33000000, 0x45000000, 0x52000000].map decode
      = List.replicate 8 (.error .unknownOpcode) := by decide

theorem test_reserved_bits :
    [0x15000001, 0x10000010, 0x22005201, 0x23000002, 0x12000203, 0x1301FF08].map decode
      = List.replicate 6 (.error .reservedBits) := by decide

theorem test_reserved_operand :
    [0x01000022, 0x01000019, 0x10000009, 0x1400000F, 0x50000005, 0x31001407, 0x3100000A].map decode
      = List.replicate 7 (.error .operandRange) := by decide

/-- V62. -/
theorem test_decode_byte_row : decode 0x1300FF08 = .ok (.ddByte 8 0xFF) := by decide

/-- The encoder gives the words of rule R100. -/
theorem test_encode :
    encode (.ddByte 8 0xC0) = 0x1300C008 ∧ encode (.rtcBegin .read 0x01) = 0x24000101 ∧ encode (.fbBigchar 7 14) = 0x31000E07
      ∧ encode (.ddBit 3 true) = 0x12000103 := by decide

/-- One ill-formed operation for each check of rule R92. -/
theorem test_illformed :
    [Instr.pinSet 0x22, .pinRead 0x19, .ddStart 9, .ddBit 15 true, .ddByte 10 0, .fbBigchar 10 0, .fbBigchar 0 20,
      .evtPost 5].map Instr.wf = List.replicate 8 false := by decide

/-! ### The reference parameters -/

/-- The reference parameters meet the constraints of rules R66, R72, R209. -/
theorem test_refBoard_valid : Config.refBoard.valid = true := by decide +kernel

/-- Whatever the board is, its parameters meet the constraints. -/
theorem test_board_valid : Config.board.valid = true := by
  unfold Config.board
  split
  · assumption
  · exact test_refBoard_valid

/-! ### A small state -/

/-- The state after reset with the reference parameters and `n` quiet batches of events. -/
def base (n : Nat) : State :=
  { State.reset with
    board := Config.refBoard
    rtcChip := default
    displays := nineOf fun _ => default
    env := { held := lineOf fun _ => false, script := List.replicate n [], picks := [], drawn := 0 } }

/-- What `f` says of the next state; `none` where there is none. -/
def look {α : Type} (a : Answer) (f : State → α) : Option α :=
  match a with
  | .next s => some (f s)
  | .fault _ => none
  | .refused _ => none

/-- The reason of a refusal. -/
def why (a : Answer) : Option Refusal :=
  match a with
  | .refused r => some r
  | .next _ | .fault _ => none

/-- The byte view of a trace, one character per event of the RTC bus (95_test_vectors.md §0). -/
def rtcChar (e : LineEvent) : Char :=
  match e with
  | .wrote .rtcScl .high => 'C'
  | .wrote .rtcScl .low => 'c'
  | .wrote .rtcSda .low => 'd'
  | .wrote .rtcSda .z => 'z'
  | .sampled .rtcSda false => '0'
  | .sampled .rtcSda true => '1'
  | _ => '?'

/-! ### Pin primitives -/

/-- V1, V2, V3. -/
theorem test_pin_drive :
    look (execPinClr 0x20 (base 0)) (fun s => (s.drv.rtcScl, s.trace)) = some (.low, [.wrote .rtcScl .low])
      ∧ look (execPinSet 0x13 (base 0)) (fun s => (s.drv.ddClk.c3, s.trace)) = some (.high, [.wrote (.ddClk 3) .high])
      ∧ look (execPinTri 0x21 (base 0)) (fun s => (s.drv.rtcSda, s.trace)) = some (.z, [.wrote .rtcSda .z]) := by decide

/-- V4, V6: a released line reads 1 by the pull-up, a driven one as driven. -/
theorem test_pin_read :
    look (execPinRead 0x21 (base 1)) (fun s => (s.res, s.trace)) = some (1, [.sampled .rtcSda true])
      ∧ look (execPinRead 0x00 (base 0)) (fun s => (s.res, s.trace)) = some (1, [.sampled .ddData true]) := by decide

/-- V5, V7: held low from outside. -/
theorem test_pin_read_low :
    look (execPinRead 0x31 { base 0 with env := { (base 0).env with script := [[.holdLow (.btn .inc)]] } })
      (fun s => (s.res, s.trace)) = some (0, [.sampled (.btn .inc) false]) := by decide

/-- V8, V18 and rule R102. -/
theorem test_refusals :
    why (execPinSet 0x30 (base 0)) = some .buttonDriven ∧ why (execPinSet 0x22 (base 0)) = some .unknownLine
      ∧ why (execDdStart 9 (base 0)) = some .chipOutOfRange ∧ why (execFbBigchar 10 0 (base 0)) = some .glyphOutOfRange
      ∧ why (execFbBigchar 7 20 (base 0)) = some .columnOutOfRange ∧ why (execEvtPost 2 (base 0)) = some .wrongContext
      ∧ why (execEvtPost 5 { base 0 with inHandler := true }) = some .eventOutOfRange
      ∧ why (execFbClear { base 0 with inHandler := true }) = some .wrongContext := by decide

/-- V9, rule R10: a write that changes no driver state is not observable, nor is the release of a line at 1 that nothing holds. -/
theorem test_waveform : waveform (lineOf fun _ => false) (lineOf idleDrive) [.wrote .ddData .high, .wrote .ddData .z] = [] := by decide

/-! ### Display driver -/

/-- V10, V11. -/
theorem test_dd_start_stop :
    look (execDdStart 2 (base 0)) (·.trace) = some [.wrote .ddData .low, .wrote (.ddClk 2) .low]
      ∧ look (execDdStop 2 (base 0)) (·.trace)
          = some [.wrote .ddData .low, .wrote (.ddClk 2) .high, .wrote .ddData .high] := by decide

/-- V12: the data writes of 0x8F, bit 0 first. -/
theorem test_dd_byte :
    look (execDdByte 0 0x8F (base 0)) (fun s => s.trace.filter fun e => e matches .wrote .ddData _)
      = some ([Drive.high, .high, .high, .high, .low, .low, .low, .high].map (.wrote .ddData)) := by decide

/-- V19: a bit outside a bracket leaves the clock low. -/
theorem test_dd_bit : look (execDdBit 3 true (base 0)) (fun s => (s.drv.ddData, s.drv.ddClk.c3)) = some (.high, .low) := by
  decide

/-- V13. -/
theorem test_wire :
    wireBytes [0x3F, 0x06, 0x5B, 0x4F, 0x66, 0x6D, 0x7D, 0x07] [0x7F, 0x6F, 0x80, 0x00, 0x00, 0x00, 0x00, 0xFF]
      = [0xED, 0x83, 0x9F, 0x83, 0xFB, 0x83, 0x6D, 0x83, 0x45, 0x81, 0x71, 0x83, 0x7C, 0x83, 0x00, 0x84] := by decide

/-- The frame buffer of V32, the setting screen 12:34 with the minute tens underlined. -/
def screen : Memory := renderSet Config.refBoard .setMinutesTens { h := 12, mt := 3, mo := 4 } []

/-- V32. -/
theorem test_screen :
    screen = [(56, 0x6D), (57, 0x79), (58, 0x78), (60, 0x06), (61, 0xDB), (62, 0x4F), (63, 0x66), (86, 0x80)] := by
  decide +kernel

/-- V33, V34: a one-digit hour, and hour 0. -/
theorem test_screen_one_digit :
    renderSet Config.refBoard .setHours { h := 9, mt := 0, mo := 5 } []
        = [(56, 0x6D), (57, 0x79), (58, 0x78), (61, 0xEF), (62, 0x3F), (63, 0x6D), (85, 0x80)]
      ∧ renderSet Config.refBoard .setMinutesOnes { h := 0, mt := 0, mo := 0 } []
        = [(56, 0x6D), (57, 0x79), (58, 0x78), (61, 0xBF), (62, 0x3F), (63, 0x3F), (87, 0x80)] := by decide +kernel

/-- V15: what chip 4 receives of V32, and the number of writes. -/
theorem test_dd_frame :
    wireBytes (frameRow Config.refBoard screen 4 0) (frameRow Config.refBoard screen 4 8)
        = [0x63, 0x00, 0xF0, 0x00, 0xD1, 0x00, 0x67, 0x00, 0x26, 0x00, 0x87, 0x00, 0xE7, 0x00, 0x20, 0x40]
      ∧ look (execDdFrame 4 { base 0 with fb := screen }) (fun s => s.trace.length) = some 442 := by decide +kernel

/-- V15: what the reference display chip 4 then holds, and that chip 3 holds what it held. -/
theorem test_dd_frame_memory :
    look (execDdFrame 4 { base 0 with fb := screen })
        (fun s => ((List.range 16).map (memRead s.displays.c4.mem), s.displays.c4.autoInc, s.displays.c3.mem))
      = some ([0x63, 0x00, 0xF0, 0x00, 0xD1, 0x00, 0x67, 0x00, 0x26, 0x00, 0x87, 0x00, 0xE7, 0x00, 0x20, 0x40], true, []) := by
  decide +kernel

/-- V16: 3978 writes. -/
theorem test_dd_present : look (execDdPresent (base 0)) (fun s => s.trace.length) = some 3978 := by decide +kernel

/-- V17: 261 writes, and the display is on. -/
theorem test_dd_allon :
    look (execDdAllon (base 0)) (fun s => (s.trace.length, s.displays.c0.on, s.displays.c8.on)) = some (261, true, true) := by
  decide +kernel

/-! ### RTC engine -/

/-- S11. -/
theorem test_rtc_start_stop :
    look (execRtcStart (base 0)) (fun s => s.trace.map rtcChar) = some ['C', 'd', 'c']
      ∧ look (execRtcStop (base 0)) (fun s => s.trace.map rtcChar) = some ['d', 'C', 'z'] := by decide

/-- V24: the trace of RTC.TX 0x52. -/
theorem test_rtc_tx :
    look (execRtcTx 0x52 (base 0)) (fun s => String.ofList (s.trace.map rtcChar)) = some "dCczCcdCczCcdCcdCczCcdCczCc" := by
  decide +kernel

/-- V27: with no chip on the bus every sample is 1. -/
theorem test_rtc_rx :
    look (execRtcRx false (base 8)) (fun s => (s.res, String.ofList (s.trace.map rtcChar)))
      = some (0xFF, "zC1cC1cC1cC1cC1cC1cC1cC1cCc") := by decide +kernel

/-- V28: the trace lengths of RTC.BEGIN, and the open bracket. -/
theorem test_rtc_begin :
    look (execRtcBegin .read 0x01 (base 0)) (fun s => (s.trace.length, s.drv.rtcScl, s.drv.rtcSda)) = some (87, .low, .z)
      ∧ look (execRtcBegin .write 0x00 (base 0)) (fun s => s.trace.length) = some 57 := by decide +kernel

/-- A reference RTC chip with the three registers. -/
def chip (sec min hour : Byte) : Config.RtcChip :=
  { answers := true, regs := memWriteAll [] [(0, sec), (1, min), (2, hour)], ptr := 0, phase := .idle, shift := 0, count := 0, low := false }

/-- V20's start state: the reference chip at 12:34, TIME at 12:33. -/
def v20 : State :=
  { base 16 with rtcChip := (chip 0x27 0x34 0x52), time := { ht := 1, ho := 2, mt := 3, mo := 3 } }

/-- V20: the state RTC.GETTIME leaves. -/
theorem test_rtc_gettime :
    look (execRtcGettime v20) (fun s => (s.time, s.redraw, s.rtcInvalid, s.res))
        = some ({ ht := 1, ho := 2, mt := 3, mo := 4 }, true, false, 0x52)
      ∧ look (execRtcGettime v20) (fun s => (s.drv.rtcScl, s.drv.rtcSda)) = some (.high, .z) := by decide +kernel

/-- V20: the whole trace of RTC.GETTIME. -/
theorem test_rtc_gettime_trace :
    look (execRtcGettime v20) (fun s => String.ofList (s.trace.map rtcChar))
      = some ("CdczCczCcdCczCcdCcdCcdCcdCczCcdCcdCcdCcdCcdCcdCcdCczCczCc"
          ++ "CdczCczCcdCczCcdCcdCcdCczCczCc"
          ++ "zC0cC0cC1cC1cC0cC1cC0cC0cdCczC0cC1cC0cC1cC0cC0cC1cC0cCcdCz") := by
  decide +kernel

/-- V23, first row (S2): hour 19 is rejected. -/
theorem test_rtc_gettime_invalid :
    look (execRtcGettime { base 16 with
        rtcChip := (chip 0x27 0x34 0x19), time := { ht := 1, ho := 2, mt := 3, mo := 3 }, redraw := true })
        (fun s => (s.time, s.redraw, s.rtcInvalid)) = some ({ ht := 1, ho := 2, mt := 3, mo := 3 }, false, true) := by
  decide +kernel

/-- V22, V23: masking and validity. -/
theorem test_decode_time :
    decodeTime 0xB4 0xF2 = { ht := 1, ho := 2, mt := 3, mo := 4 } ∧ decodeTime 0x34 0x72 = { ht := 1, ho := 2, mt := 3, mo := 4 }
      ∧ [(0x34, 0x19), (0x00, 0x40), (0x00, 0x53), (0x60, 0x41), (0x3A, 0x41), (0x00, 0x4A), (0xFF, 0xFF), (0x59, 0x52),
          (0x00, 0x41)].map (fun p => validTime (decodeTime p.1 p.2))
        = [false, false, false, false, false, false, false, true, true] := by decide

/-- V25. -/
theorem test_packing :
    (List.range 16).map (fun n => encHours (BitVec.ofNat 4 n))
        = [0x40, 0x41, 0x42, 0x43, 0x44, 0x45, 0x46, 0x47, 0x48, 0x49, 0x50, 0x51, 0x52, 0x53, 0x54, 0x55]
      ∧ encMinutes 5 9 = 0x59 ∧ encMinutes 3 4 = 0x34 ∧ encMinutes 0 9 = 0x09 := by decide

/-- V24: 141 writes, and what the reference chip then holds. -/
theorem test_rtc_settime :
    look (execRtcSettime { base 0 with rtcChip := (chip 0x27 0x15 0x49), scratch := { h := 12, mt := 3, mo := 4 } })
        (fun s => (s.trace.length, s.rtcChip.regs)) = some (141, [(1, 0x34), (2, 0x52)]) := by decide +kernel

/-- S1, P1: a halted clock is started at 12:00 and read back, 403 events. -/
theorem test_rtc_init :
    look (execRtcInit { base 24 with rtcChip := (chip 0x80 0x15 0x09) })
        (fun s => (s.trace.length, s.time, s.rtcChip.regs))
      = some (403, { ht := 1, ho := 2, mt := 0, mo := 0 }, [(2, 0x52)]) := by decide +kernel

/-- V29: no chip at all. -/
theorem test_rtc_init_absent :
    look (execRtcInit (base 24)) (fun s => (s.trace.length, s.time, s.redraw, s.rtcInvalid))
      = some (403, { ht := 0, ho := 0, mt := 0, mo := 0 }, false, true) := by decide +kernel

/-! ### Renderer -/

/-- One row of a frame buffer. -/
def row (fb : Memory) (r : Nat) : List Byte := (List.range 24).map fun c => memRead fb (fbAddr r c)

/-- V30: 9:41, rows 0 and 1. -/
theorem test_render_clock :
    row (renderClock Config.refBoard { ht := 0, ho := 9, mt := 4, mo := 1 } []) 0
        = [0, 0, 0, 0, 0, 0x11, 0x12, 0x13, 0x14, 0x15, 0, 0, 0, 0, 0x79, 0x7A, 0x7B, 0x7C, 0x7D, 0x1F, 0x20, 0x21, 0x22, 0x23]
      ∧ row (renderClock Config.refBoard { ht := 0, ho := 9, mt := 4, mo := 1 } []) 1
        = [0, 0, 0, 0, 0, 0x16, 0x17, 0x18, 0x19, 0x1A, 0, 0x63, 0, 0, 0x7E, 0x7F, 0x01, 0x02, 0x03, 0x24, 0x25, 0x26, 0x27,
            0x28] := by decide +kernel

/-- V31: 12:05, row 4: the leading 1, the second colon cell, glyph 0 for the digit 0. -/
theorem test_render_clock_tens :
    row (renderClock Config.refBoard { ht := 1, ho := 2, mt := 0, mo := 5 } []) 4
        = [0x33, 0x34, 0x35, 0x36, 0x37, 0x51, 0x52, 0x53, 0x54, 0x55, 0, 0x5C, 0, 0, 0x15, 0x16, 0x17, 0x18, 0x19, 0x2C, 0x2D,
            0x2E, 0x2F, 0x30] := by decide +kernel

/-- V36, V37: the copy overwrites, and only its 30 cells change. -/
theorem test_bigchar :
    look (execFbBigchar 7 14 { base 0 with fb := [(14, 0xFF), (143, 0x22)] })
        (fun s => ((row s.fb 0).drop 14, row s.fb 5))
      = some ([0x54, 0x55, 0x56, 0x57, 0x58, 0, 0, 0, 0, 0],
          List.replicate 14 0 ++ [0x6D, 0x6E, 0x6F, 0x70, 0x71, 0, 0, 0, 0, 0x22]) := by decide +kernel

/-- V38. -/
theorem test_fb_clear : look (execFbClear { base 0 with fb := [(3, 7)] }) (·.fb) = some [] := by decide

/-- FB.RENDER in a setting mode paints the screen of V32 and reads SCRATCH only. -/
theorem test_fb_render :
    look (execFbRender { base 0 with mode := .setMinutesTens, scratch := { h := 12, mt := 3, mo := 4 } }) (·.fb) = some screen := by
  decide +kernel

/-! ### Mailbox and sequencer -/

/-- V40, P5: last write wins. -/
theorem test_evt_post :
    look (execEvtPost 2 { base 0 with inHandler := true, evt := .timeTick }) (·.evt) = some .incPressed
      ∧ look (execEvtPost 0 { base 0 with inHandler := true, evt := .setPressed }) (·.evt) = some .none := by decide

/-- V41. -/
theorem test_evt_take : look (execEvtTake { base 0 with evt := .decPressed }) (fun s => (s.res, s.evt)) = some (3, .none) := by
  decide

/-- V42's start state in a mode with a pending event. -/
def v42 (m : Mode) (e : Event) : State :=
  { base 16 with mode := m, evt := e, scratch := { h := 12, mt := 5, mo := 9 }, time := { ht := 0, ho := 9, mt := 4, mo := 1 } }

/-- V42, the column SetPressed. -/
theorem test_dispatch_set :
    [Mode.clock, .setHours, .setMinutesTens, .setMinutesOnes].map
        (fun m => look (execSeqDispatch (v42 m .setPressed)) fun s => (s.mode, s.scratch, s.evt))
      = [some (.setHours, { h := 9, mt := 4, mo := 1 }, .none), some (.setMinutesTens, { h := 12, mt := 5, mo := 9 }, .none),
          some (.setMinutesOnes, { h := 12, mt := 5, mo := 9 }, .none), some (.clock, { h := 12, mt := 5, mo := 9 }, .none)] := by
  decide +kernel

/-- V42, the columns IncPressed and DecPressed. -/
theorem test_dispatch_edit :
    [Mode.clock, .setHours, .setMinutesTens, .setMinutesOnes].map
        (fun m => (look (execSeqDispatch (v42 m .incPressed)) (·.scratch), look (execSeqDispatch (v42 m .decPressed)) (·.scratch)))
      = [(some { h := 12, mt := 5, mo := 9 }, some { h := 12, mt := 5, mo := 9 }),
          (some { h := 1, mt := 5, mo := 9 }, some { h := 11, mt := 5, mo := 9 }),
          (some { h := 12, mt := 0, mo := 9 }, some { h := 12, mt := 4, mo := 9 }),
          (some { h := 12, mt := 5, mo := 0 }, some { h := 12, mt := 5, mo := 8 })] := by decide +kernel

/-- V43. -/
theorem test_edits_out_of_range :
    incH 0 = 1 ∧ decH 0 = 12 ∧ incH 13 = 1 ∧ decH 13 = 12 ∧ incH 15 = 1 ∧ incMt 6 = 0 ∧ incMt 7 = 0 ∧ decMt 7 = 6 ∧ incMo 12 = 0
      ∧ decMo 15 = 14 := by decide

/-- V45: a tick in a setting mode changes TIME and leaves SCRATCH. -/
theorem test_tick_in_setting_mode :
    look (execSeqDispatch { base 16 with
        mode := .setHours, scratch := { h := 9, mt := 4, mo := 1 }, time := { ht := 0, ho := 9, mt := 4, mo := 1 },
        evt := .timeTick, rtcChip := (chip 0x00 0x42 0x49) })
        (fun s => (s.time, s.redraw, s.scratch, s.mode))
      = some ({ ht := 0, ho := 9, mt := 4, mo := 2 }, true, { h := 9, mt := 4, mo := 1 }, .setHours) := by decide +kernel

/-- V44: an iteration with nothing to do is the three button reads. -/
theorem test_iter_nothing :
    look (execSeqIter { base 3 with
        seqPhase := .render, srcEn := { timer := true, button := true }, pend := { timer := false, button := true },
        time := { ht := 0, ho := 9, mt := 4, mo := 1 } })
        (fun s => (s.trace, s.pend, s.seqPhase, s.evt, s.ie))
      = some ([.sampled (.btn .set) true, .sampled (.btn .inc) true, .sampled (.btn .dec) true],
          { timer := false, button := false }, .render, .none, false) := by decide +kernel

/-- A state that holds three buttons at the levels given (true: not pressed). -/
def buttonsAt (a b c : Bool) : State :=
  { base 3 with
    pend := { timer := false, button := true }
    env := { (base 3).env with held := { lineOf (fun _ => false) with btnSet := !a, btnInc := !b, btnDec := !c } } }

/-- V46: the priority Set, Inc, Dec. -/
theorem test_button_priority :
    [(false, false, false), (false, true, false), (true, false, false), (true, false, true), (true, true, false),
        (true, true, true)].map (fun p => look (execSeqWait (buttonsAt p.1 p.2.1 p.2.2)) (·.evt))
      = [some .setPressed, some .setPressed, some .incPressed, some .incPressed, some .decPressed, some .none] := by
  decide +kernel

/-- V47: both sources pending, the choice is the environment's and the other stays pending. -/
theorem test_wait_both :
    look (execSeqWait { base 0 with
        pend := { timer := true, button := true }, env := { (base 0).env with picks := [.timer] } })
        (fun s => (s.evt, s.pend)) = some (.timeTick, { timer := false, button := true })
      ∧ look (execSeqWait { buttonsAt true false true with
        pend := { timer := true, button := true }, env := { (buttonsAt true false true).env with picks := [.button] } })
        (fun s => (s.evt, s.pend)) = some (.incPressed, { timer := true, button := false }) := by decide +kernel

/-- V48: an edge in the debounce delay leaves the latch set again. -/
theorem test_bounce :
    look (execSeqWait { base 0 with
        srcEn := { timer := true, button := true }, pend := { timer := false, button := true },
        env := { (base 0).env with script := [[.holdLow (.btn .inc)], [], []] } })
        (fun s => (s.evt, s.pend.button)) = some (.incPressed, true) := by decide +kernel

/-- V49: a hold ended by a timer overflow. -/
theorem test_wait_hold :
    look (execSeqWait { base 0 with
        srcEn := { timer := true, button := true }, env := { (base 0).env with script := [[], [.timerOverflow]] } })
        (fun s => (s.evt, s.ie, s.pend, s.inHandler)) = some (.timeTick, false, { timer := false, button := false }, false) := by
  decide +kernel

/-- With no source enabled the hold never ends (93 #23). -/
theorem test_wait_stuck : step ((base 1).withFetchWord 32 0x42000000) = .fault .waitNeverEnds := by rfl

/-- SEQ.ITER and SEQ.BOOT out of phase (93 #20). -/
theorem test_out_of_phase :
    why (execSeqIter (base 0)) = some .outOfPhase ∧ why (execSeqBoot { base 0 with seqPhase := .render }) = some .outOfPhase := by
  decide

/-- P1: boot with a halted clock, no button held, 4643 events. -/
theorem test_boot :
    look (execSeqBoot { base 25 with rtcChip := (chip 0x80 0x15 0x09) })
        (fun s => (s.trace.length, s.time, s.redraw, s.res, s.srcEn, s.seqPhase))
      = some (4643, { ht := 1, ho := 2, mt := 0, mo := 0 }, true, 1, { timer := true, button := true }, .render) := by
  decide +kernel

/-- The boot diagnostic visits 1152 bits, row by row (rule R246). -/
theorem test_selftest_order : selfTestOrder.length = 1152 ∧ selfTestOrder.take 2 = [(0, 0), (0, 1)] := by decide +kernel

/-- SEQ.SELFTEST as a command completes and leaves the mode. -/
theorem test_selftest : look (execSeqSelftest (base 0)) (fun _ => true) = some true := by rfl

/-- A command word is taken up before the sequencer goes on, P4 step 5 (rule R90). -/
theorem test_step_word :
    look (step ((base 1).withFetchWord 32 0x13008F04)) (fun s => (s.trace.length, s.port)) = some (24, []) := by decide +kernel

/-- A reserved word is refused by the step (rule R98). -/
theorem test_step_reserved :
    why (step ((base 1).withFetchWord 32 0)) = some (.reservedWord .unknownOpcode) := by decide +kernel

/-- With nothing presented the sequencer boots (rule R312). -/
theorem test_step_boots : look (step (base 40)) (·.seqPhase) = some .render := by decide +kernel

/-! ### Witnesses: a concrete state and operands that meet the hypotheses of each obligation -/

/-- EncodeThenDecodeIsIdentity, at the largest legal operands. -/
theorem witness_encodeThenDecode :
    WellFormed (.fbBigchar 9 19) ∧ WellFormed (.ddByte 8 0xFF) ∧ WellFormed (.evtPost 4) ∧ WellFormed (.pinTri 0x32) := by decide

/-- DecodeThenEncodeIsIdentity. -/
theorem witness_decodeThenEncode : decode 0x31001309 = .ok (.fbBigchar 9 19) := by decide

/-- ReservedWordsAreRefused, one per clause. -/
theorem witness_reservedWords :
    (∀ i : Instr, (0x05000000 : CmdWord).extractLsb' 24 8 ≠ opcodeOf i)
      ∧ ((0x15000001 : CmdWord).extractLsb' 24 8 = opcodeOf .ddPresent ∧ 0x15000001 &&& rowMask .ddPresent ≠ rowMatch .ddPresent)
      ∧ ¬ WellFormed (.ddStart 9)
      ∧ ((base 0).withFetchWord 32 0x05000000).port = [0x05000000] ∧ decode 0x05000000 = .error .unknownOpcode := by
  refine ⟨fun i => ?_, by decide, by decide, by decide, by decide⟩
  cases i <;> simp only [opcodeOf] <;> decide

/-- StepRunsThePresentedOperation. -/
theorem witness_stepRuns :
    ((base 0).withFetchWord 32 0x14000004).port = [0x14000004] ∧ decode 0x14000004 = .ok (.ddFrame 4) := by decide

/-- A state at the top of an iteration, as after a boot. -/
def top (n : Nat) : State :=
  { base n with seqPhase := .render, srcEn := { timer := true, button := true } }

/-- SequencerGoesByItself, and the phases of OutOfPhaseIsRefused, BootFromIdleLinesIsItsSequence and BootPutsEveryLineIdle. -/
theorem witness_sequencerGoes :
    (base 0).port = [] ∧ (base 0).seqPhase = .boot ∧ (base 0).inHandler = false ∧ (top 0).port = [] ∧ (top 0).seqPhase = .render
      ∧ (top 0).inHandler = false := by decide

/-- EnvironmentSetsOnlyEnabledLatches: a scripted batch, a press that changes a level, and a release of a line nothing holds. -/
theorem witness_environment :
    (base 1).env.script = [] :: [] ∧ (top 0).srcEn.button = true
      ∧ (top 0).level (.btn .dec) ≠ ((top 0).absorb [.holdLow (.btn .dec)]).level (.btn .dec)
      ∧ (∀ b, (top 0).level (.btn b) = ((top 0).absorb [.letGo (.btn .dec)]).level (.btn b)) := by
  refine ⟨by decide, by decide, by decide, fun b => ?_⟩
  cases b <;> decide

/-- Both directions of an edge set the latch, and so does one within a batch that ends where it began (rule R273). -/
theorem test_button_edges :
    ((top 0).absorb [.holdLow (.btn .inc), .letGo (.btn .inc)]).pend = { timer := false, button := true }
      ∧ ((top 0).absorb [.letGo (.btn .inc)]).pend = { timer := false, button := false }
      ∧ ((base 0).absorb [.holdLow (.btn .inc), .timerOverflow]).pend = { timer := false, button := false } := by decide

/-- A state in which a handler runs. -/
def handling : State := { base 0 with inHandler := true }

/-- WrongContextIsRefused, and the handler half of MailboxIsLastWriteWins and IllegalOperandsAreRefused. -/
theorem witness_handler_context :
    handling.inHandler = true ∧ (∀ e, Instr.fbClear ≠ .evtPost e) ∧ eventOf 4 = some .timeTick ∧ 4 < (5 : BitVec 3).toNat := by
  refine ⟨by decide, fun e => ?_, by decide, by decide⟩
  simp

/-- The obligations whose one hypothesis is the main context: PresentSendsNineFrames, AllOnCommandsEveryChip, the composites,
the RTC engine's, ClearZeroesTheGrid, MailboxIsLastWriteWins, and the second half of WrongContextIsRefused. -/
theorem witness_main_context : (base 0).inHandler = false := by decide

/-- IllegalOperandsAreRefused: the first illegal value of each field. -/
theorem witness_illegalOperands :
    lineOfId 0x19 = none ∧ 8 < (9 : BitVec 4).toNat ∧ 9 < (10 : BitVec 4).toNat ∧ (9 : BitVec 4).toNat ≤ 9
      ∧ 19 < (20 : BitVec 5).toNat := by decide

/-- LineIdsAreTheTable, PinWritesDriveOneLine (a line that may be driven, and a button), PinReadReturnsTheLevel (a line in each
driver state). -/
theorem witness_lines :
    lineOfId 0x18 = some (.ddClk 8) ∧ (∀ b, Line.ddClk 8 ≠ .btn b) ∧ lineOfId 0x32 = some (.btn .dec)
      ∧ lineGet (base 0).drv (.ddClk 8) = .high ∧ lineGet (base 0).drv .rtcSda = .z
      ∧ look (execPinClr 0x18 (base 0)) (fun s => lineGet s.drv (.ddClk 8)) = some .low := by
  refine ⟨by decide, fun b => ?_, by decide, by decide, by decide, by decide⟩
  simp

/-- DisplayPrimitivesWriteTheirTraces, FrameSendsTheBitPlanes, FrameFillsTheChipsMemory, CompositesAreTheirExpansions: chips 0
and 8. -/
theorem witness_chips :
    (8 : BitVec 4).toNat = (8 : Chip).val ∧ (0 : BitVec 4).toNat = (0 : Chip).val
      ∧ memWf (nineGet (base 0).displays 8).mem = true ∧ (base 0).inHandler = false ∧ lineGet (base 0).drv (.ddClk 0) ≠ .z
      ∧ ∃ t, exec (.ddFrame 8) (base 0) = .next t :=
  ⟨by decide, by decide, by decide, by decide, by decide, _, rfl⟩

/-- PlanesTakeOneBitOfEachByte, PlanesIsABijection, FrameBitsAreTheWireBytes. -/
theorem witness_rows : (List.replicate 8 (0xA5 : Byte)).length = 8 ∧ (List.replicate 128 true).length = 128 := by
  decide +kernel

/-- RxReceivesWhatThePeerSends: the peer of V27 that sends 0x34, and what is received. -/
theorem witness_rx :
    let s := { base 0 with env := { (base 0).env with
      script := [[.holdLow .rtcSda], [.holdLow .rtcSda], [.letGo .rtcSda], [.letGo .rtcSda], [.holdLow .rtcSda], [.letGo .rtcSda],
        [.holdLow .rtcSda], [.holdLow .rtcSda]] } }
    s.env.script
        = ([7, 6, 5, 4, 3, 2, 1, 0].map fun i =>
            [if (0x34 : Byte).getLsbD i then EnvEvent.letGo .rtcSda else EnvEvent.holdLow .rtcSda]) ++ []
      ∧ s.rtcChip.answers = false ∧ s.inHandler = false ∧ look (exec (.rtcRx false) s) (·.res) = some 0x34 := by decide +kernel

/-- PackedTimeDecodesBack, at both ends of the ranges. -/
theorem witness_packed :
    1 ≤ (1 : BitVec 4).toNat ∧ (12 : BitVec 4).toNat ≤ 12 ∧ (5 : BitVec 3).toNat ≤ 5 ∧ (9 : BitVec 4).toNat ≤ 9 := by decide

/-- TimeWrittenIsTimeReadBack: the reference chip, an edited 12:59, and the time read back. -/
theorem witness_readBack :
    let s := { base 16 with rtcChip := (chip 0x00 0x15 0x49), scratch := { h := 12, mt := 5, mo := 9 } }
    s.board.valid = true ∧ (s.inHandler = false ∧ s.board.rtcAddrW ≠ s.board.rtcAddrR
        ∧ memWf (chip 0x00 0x15 0x49).regs = true ∧ lineGet s.drv .rtcScl = .high ∧ lineGet s.drv .rtcSda = .z
        ∧ (chip 0x00 0x15 0x49).low = false ∧ lineGet s.env.held .rtcSda = false
        ∧ s.env.script = List.replicate 16 [] ++ [])
      ∧ look (thenDo (exec .rtcSettime s) (exec .rtcGettime)) (fun t => (t.time, t.rtcInvalid))
          = some ({ ht := 1, ho := 2, mt := 5, mo := 9 }, false) :=
  ⟨test_refBoard_valid, by decide +kernel⟩

/-- BigCharCopiesTheGlyph, RenderClockDrawsTheFace and RenderSetDrawsTheScreen, at the largest digits. -/
theorem witness_render :
    let s := { base 0 with time := { ht := 0, ho := 9, mt := 7, mo := 9 }, scratch := { h := 15, mt := 7, mo := 9 } }
    s.board.valid = true ∧ memWf s.fb = true ∧ s.mode = .clock ∧ s.time.ho.toNat ≤ 9 ∧ s.time.mo.toNat ≤ 9
      ∧ s.scratch.mo.toNat ≤ 9 ∧ (9 : BitVec 4).toNat ≤ 9 ∧ (19 : BitVec 5).toNat ≤ 19
      ∧ ({ s with mode := .setMinutesOnes }.mode = .setMinutesOnes
        ∧ (⟨3, 15⟩ : Cell) = { s with mode := .setMinutesOnes }.board.layout.ulOnes) :=
  ⟨test_refBoard_valid, by decide⟩

/-- SetPressedCyclesTheModes (each mode), IncAndDecEditTheField, TickReadsTheTimeInEveryMode, and the dispatch clause of
CompositesAreTheirExpansions: the event alone is the hypothesis. -/
theorem witness_dispatch :
    { base 0 with evt := .setPressed, mode := .setMinutesOnes }.evt = .setPressed
      ∧ { base 0 with evt := .setPressed, mode := .setMinutesOnes }.mode = .setMinutesOnes
      ∧ { base 0 with evt := .incPressed }.evt = .incPressed ∧ { base 0 with evt := .decPressed }.evt = .decPressed
      ∧ { base 0 with evt := .timeTick }.evt = .timeTick ∧ (base 0).evt = .none ∧ (base 0).inHandler = false := by decide

/-- The wait obligations: the timer pending, the button pending, both with a choice, neither with the timer enabled, neither with
nothing enabled. -/
theorem witness_wait :
    { base 0 with pend := { timer := true, button := false } }.pend = { timer := true, button := false }
      ∧ (buttonsAt true true true).pend = { timer := false, button := true }
      ∧ { base 0 with pend := { timer := true, button := true }, env := { (base 0).env with picks := [.button] } }.env.picks
          = [.button]
      ∧ (top 0).srcEn.timer = true ∧ (top 0).anyPending = false ∧ (base 0).pend = { timer := false, button := false }
      ∧ (base 0).srcEn = { timer := false, button := false } := by decide

/-- WaitServicesThePendingButton: a press of Set before the first read, let go before the second with Inc pressed, nothing before the
third; what is read is what is held. -/
theorem witness_button_reads :
    let s := { base 0 with
      pend := { timer := false, button := true }
      env := { (base 0).env with script := [[.holdLow (.btn .set)], [.letGo (.btn .set), .holdLow (.btn .inc)], []] } }
    s.inHandler = false ∧ (lineGet s.drv (.btn .set) = .z ∧ lineGet s.drv (.btn .inc) = .z ∧ lineGet s.drv (.btn .dec) = .z)
      ∧ look (execSeqWait s) (fun t => (t.trace, t.evt))
        = some ([.sampled (.btn .set) false, .sampled (.btn .inc) false, .sampled (.btn .dec) true], .setPressed) := by
  decide +kernel

/-- WaitRunsExactlyOneHandler: a hold that ends with both sources pending; the one not serviced stays pending. -/
theorem witness_one_handler :
    let s := { top 0 with env := { (top 0).env with
      script := [[], [.timerOverflow, .holdLow (.btn .inc)]], picks := [.timer] } }
    s.inHandler = false ∧ s.srcEn.timer = true
      ∧ look (execSeqWait s) (fun t => (t.evt, t.pend)) = some (.timeTick, { timer := false, button := true }) := by
  decide +kernel

/-- DecrementsInvertIncrements, at the ends of the ranges: each cycle wraps (rule R250). -/
theorem witness_cycles :
    incH 12 = 1 ∧ decH 1 = 12 ∧ incMt 5 = 0 ∧ decMt 0 = 5 ∧ incMo 9 = 0 ∧ decMo 0 = 9 := by decide

/-- IterationIsTheRulesSequence: a render is wanted and its digits are in range. -/
theorem witness_iteration :
    { top 0 with redraw := true }.inHandler = false ∧ { top 0 with redraw := true }.seqPhase = .render
      ∧ { top 0 with redraw := true }.srcEn.timer = true ∧ { top 0 with redraw := true }.digitsDrawable = true := by decide

/-- IterationWithNoEventRendersNothing: V44's state. -/
theorem witness_quiet_iteration :
    let s := { top 3 with pend := { timer := false, button := true } }
    s.inHandler = false ∧ s.seqPhase = .render ∧ s.mode = .clock ∧ s.redraw = false
      ∧ (∀ b, lineGet s.drv (.btn b) = .z) ∧ (∀ b, lineGet s.env.held (.btn b) = false) ∧ s.env.script = [[], [], []] ++ [] := by
  refine ⟨by decide, by decide, by decide, by decide, fun b => ?_, fun b => ?_, by decide⟩ <;> cases b <;> decide

/-- BootFromIdleLinesIsItsSequence, and the lines of BusesIdleBetweenOperations. -/
theorem witness_idle : LinesIdle (base 0) := fun l => lineGet_lineOf idleDrive l

/-- SelfTestLightsEveryBit. -/
theorem witness_selftest : memWf (base 0).fb = true ∧ (base 0).inHandler = false := by decide

/-- RegistersHaveTheirOwners, TablesAndStickyBitsStay, TraceOnlyGrows: an operation that completes, not one the clauses except. -/
theorem witness_completes : ∃ t, exec .ddPresent { base 0 with rtcInvalid := true } = .next t := ⟨_, rfl⟩

/-- EveryStepKeepsTheInvariant, SequencerNeverStops, BusesIdleBetweenOperations: at boot and at the top of an iteration. -/
theorem witness_inv : (base 1).Inv ∧ (top 1).Inv := by
  have hd : ∀ k, memWf (nineGet (base 1).displays k).mem = true ∧ memBelow 16 (nineGet (base 1).displays k).mem = true := fun k => by
    fin_cases k <;> decide
  have hb : ∀ b, lineGet (base 1).drv (.btn b) = .z := fun b => by cases b <;> decide
  exact ⟨⟨⟨by decide, by decide, hd, by decide, by decide⟩, .inr rfl, ⟨by decide, by decide⟩, hb, rfl, rfl, .inl rfl, test_refBoard_valid⟩,
    ⟨⟨by decide, by decide, hd, by decide, by decide⟩, .inr rfl, ⟨by decide, by decide⟩, hb, rfl, rfl, .inr ⟨rfl, rfl⟩, test_refBoard_valid⟩⟩

/-- EveryStepKeepsTheInvariant and BusesIdleBetweenOperations: the step answers a next state. -/
theorem witness_steps : (∃ t, step (base 1) = .next t) ∧ (base 1).port = [] ∧ (base 1).seqPhase = .boot :=
  ⟨⟨_, rfl⟩, rfl, rfl⟩

/-- UnchangedWritesAreNotObservable: a write that changes nothing, a release that changes no level, and a write that changes one. -/
theorem witness_waveform :
    let held := lineOf fun _ => false
    let drv := lineOf idleDrive
    lineGet drv .ddData = .high ∧ lineLevel held (lineSet drv .ddData .z) .ddData = lineLevel held drv .ddData
      ∧ lineLevel held (lineSet drv .ddData .low) .ddData ≠ lineLevel held drv .ddData
      ∧ drivenBy drv (base 0).trace = (base 0).drv ∧ lineOfId 0x00 = some .ddData := by decide

/-- A read that finds a released line low counts in the waveform (rule R10). -/
theorem test_waveform_sample :
    waveform (lineOf fun _ => false) (lineOf idleDrive) [.sampled .rtcSda false, .sampled .rtcSda false]
      = [levels (lineSet (lineOf fun _ => false) .rtcSda true) (lineOf idleDrive)] := by decide

/-- A released display clock: the chip sees the environment move it and shifts bits in (rule R123). -/
theorem test_released_clock :
    let s := { base 0 with
      drv := lineSet (base 0).drv (.ddClk 0) .z
      displays := nineOf fun _ => { (default : Config.DisplayChip) with inBracket := true } }
    let t := s.absorb [.holdLow (.ddClk 0), .letGo (.ddClk 0), .holdLow (.ddClk 0), .letGo (.ddClk 0)]
    t.displays.c0.count = 2 ∧ t.displays.c0.shift = 0x03 ∧ t.displays.c1.count = 0 := by decide

/-- A released display clock moves between two writes of one operation: a chip in a bracket takes the byte 0x55 while the block writes
only its data line (rule R123), for levels of the released line that the board may give. -/
theorem test_floating_clock :
    let d := { (default : Config.DisplayChip) with inBracket := true }
    let clock (_ : Nat) : List (LineMap Bool) := [lineOf fun _ => true, lineOf fun _ => false]
    let ws := [true, false, true, false, true, false, true, false].map ddData
    memRead (displayRun Config.refBoard clock 0 0 (lineSet (lineOf idleDrive) (.ddClk 0) .z) d ws).mem 0 = 0x55
      ∧ memRead (displayRun Config.refBoard clock 0 1 (lineSet (lineOf idleDrive) (.ddClk 0) .z) d ws).mem 0 = 0 := by
  decide +kernel

/-- A released clock need not follow what the environment holds low: the chip can see no bracket open at all, or see one at whichever
write finds the clock high (rule R123). -/
theorem test_floating_bracket :
    let drv := lineSet (lineOf idleDrive) (.ddClk 0) .z
    let run (clk : Bool) := displayRun Config.refBoard (fun _ => [lineOf fun _ => clk]) 0 0 drv default [ddData true, ddData false]
    (run true).inBracket = true ∧ (run false).inBracket = false := by decide +kernel

/-- The RTC chip's registers survive a loss of main power, the rest of the machine is reset; without backup power the clock is
halted (rules R78, R314). -/
theorem test_power_on :
    ((v20.powerOn true).rtcChip.regs, (v20.powerOn true).time, (v20.powerOn true).seqPhase)
      = (v20.rtcChip.regs, { ht := 0, ho := 0, mt := 0, mo := 0 }, .boot) := by rfl

/-- A silent RTC chip is an absent one: every bit reads 1 (rule R270). -/
theorem test_silent_chip :
    look (execRtcRx false { (base 8) with rtcChip := { chip 0x00 0x00 0x00 with answers := false, phase := .send, low := true } })
      (·.res) = some 0xFF := by decide +kernel

end Sys2Proof.Tests
end

section
/-! PROOF. The environment's chance to act (rules R14, R35, R272, R273, R275; log 4): what one event and a batch of events do to
the lines, the latches and the chips. -/

namespace Sys2Proof.Machine

/-! ### Events and the lines -/

theorem mem_buttons (b : Button) : b ∈ buttons := by cases b <;> decide

/-- Which line an event leaves held low. -/
theorem lineGet_heldAfter (held : LineMap Bool) (e : EnvEvent) (l : Line) :
    lineGet (heldAfter held e) l = if e = .holdLow l then true else if e = .letGo l then false else lineGet held l := by
  cases e with
  | holdLow l' => simp [heldAfter, lineGet_lineSet, eq_comm]
  | letGo l' => simp [heldAfter, lineGet_lineSet, eq_comm]
  | timerOverflow | rtcReg _ _ | rtcAnswers _ => simp [heldAfter]

/-- No chip acts on a button line: its level is the block's and the environment's (rule R14). -/
theorem level_btn (s : State) (b : Button) : s.level (.btn b) = lineLevel s.env.held s.drv (.btn b) := by
  have hb : (Line.btn b == .rtcSda) = false := beq_false_of_ne nofun
  simp [State.level, lineLevel, hb]

theorem buttonEdge_iff (drv : LineMap Drive) (held : LineMap Bool) (e : EnvEvent) :
    buttonEdge drv held e = true ↔ ∃ b, lineLevel held drv (.btn b) ≠ lineLevel (heldAfter held e) drv (.btn b) := by
  simp [buttonEdge, mem_buttons]

@[simp] theorem State.absorb_env (s : State) (es : List EnvEvent) :
    (s.absorb es).env = { s.env with held := es.foldl heldAfter s.env.held } := rfl

/-! ### Batches -/

/-- The chance to act with a batch scripted takes that batch (log 4). -/
theorem arrive_of_script {s : State} {es : List EnvEvent} {rest : List (List EnvEvent)} (h : s.env.script = es :: rest) :
    s.arrive = ({ s with env := { s.env with script := rest } }).absorb es := by
  simp [State.arrive, Env.batch, Env.afterBatch, h]

theorem absorb_nil (s : State) : s.absorb [] = s := by
  simp [State.absorb, buttonEdges, rtcThrough, displayThrough, nineOf_nineGet]

/-- A batch is its first event and then the others. -/
theorem absorb_cons (s : State) (e : EnvEvent) (es : List EnvEvent) : s.absorb (e :: es) = (s.absorb [e]).absorb es := by
  have ht : (s.absorb (e :: es)).pend = ((s.absorb [e]).absorb es).pend := by
    simp [State.absorb, buttonEdges, Bool.and_or_distrib_left, Bool.or_assoc]
  have hd : (s.absorb (e :: es)).displays = ((s.absorb [e]).absorb es).displays := by
    simp [State.absorb, displayThrough]
  calc s.absorb (e :: es)
      = { (s.absorb [e]).absorb es with
          pend := (s.absorb (e :: es)).pend, displays := (s.absorb (e :: es)).displays } := rfl
    _ = (s.absorb [e]).absorb es := by rw [ht, hd]

/-! ### Latches -/

theorem absorb_one_timer (s : State) (e : EnvEvent) :
    (s.absorb [e]).pend.timer = true ↔ s.pend.timer = true ∨ (s.srcEn.timer = true ∧ e = .timerOverflow) := by
  simp [State.absorb, eq_comm (a := EnvEvent.timerOverflow)]

theorem absorb_one_button (s : State) (e : EnvEvent) :
    (s.absorb [e]).pend.button = true
      ↔ s.pend.button = true ∨ (s.srcEn.button = true ∧ ∃ b, s.level (.btn b) ≠ (s.absorb [e]).level (.btn b)) := by
  have hedge : (∃ b, s.level (.btn b) ≠ (s.absorb [e]).level (.btn b)) ↔ buttonEdge s.drv s.env.held e = true := by
    simp only [buttonEdge_iff, level_btn, State.absorb_env, State.absorb_drv, List.foldl_cons, List.foldl_nil]
  rw [hedge]
  simp [State.absorb, buttonEdges]

/-- Settles O7: the frame and the latches of a batch are the law of line activity, a batch splits into its events, and one event's
latches are read off the level it changes. -/
theorem environmentSetsOnlyEnabledLatches : Obligations.EnvironmentSetsOnlyEnabledLatches := by
  unfold Obligations.EnvironmentSetsOnlyEnabledLatches
  refine ⟨fun s => ⟨rfl, (arrive_lineActivity s).2⟩, fun s es rest => arrive_of_script, absorb_nil, absorb_cons, fun s e => ?_⟩
  exact ⟨absorb_one_timer s e, absorb_one_button s e, lineGet_heldAfter s.env.held e⟩

end Sys2Proof.Machine
end

section
/-! PROOF. SEQ.WAIT with the button pending (rules R241, R278, R280, R281, R291): what a read of a button line finds and leaves, and
the button handler made of three such reads. -/

namespace Sys2Proof.Machine

/-! ### One read of a button line -/

/-- A read changes no register of the block, and no driver state either (rule R14). -/
theorem afterRead_eq (s : State) (l : Line) :
    s.afterRead l = { s with
      trace := (s.afterRead l).trace, pend := (s.afterRead l).pend, env := (s.afterRead l).env,
      rtcChip := (s.afterRead l).rtcChip, displays := (s.afterRead l).displays } := by
  have h := (afterRead_lineActivity s l).1
  rw [State.afterRead_drv] at h
  exact h

theorem readsAs_btn (s : State) (b : Button) :
    s.readsAs (.btn b) = lineLevel (s.beforeRead (.btn b)).env.held s.drv (.btn b) := by
  rw [State.readsAs, level_btn, State.beforeRead_drv]

/-- A driven button line reads as driven, whatever is held low. -/
theorem readsAs_btn_of_high {s : State} {b : Button} (h : lineGet s.drv (.btn b) = .high) : s.readsAs (.btn b) = true := by
  simp [readsAs_btn, lineLevel, h, levelOf]

theorem readsAs_btn_of_low {s : State} {b : Button} (h : lineGet s.drv (.btn b) = .low) : s.readsAs (.btn b) = false := by
  simp [readsAs_btn, lineLevel, h, levelOf]

section Scripted
variable {s : State} {e : List EnvEvent} {rest : List (List EnvEvent)} {l : Line}

/-- A read of a released line takes the script's next batch (log 4). -/
theorem beforeRead_env_of_script (hz : lineGet s.drv l = .z) (hs : s.env.script = e :: rest) :
    (s.beforeRead l).env = { s.env with held := e.foldl heldAfter s.env.held, script := rest } := by
  rw [beforeRead_of_released s l hz, arrive_of_script hs, State.absorb_env]

theorem afterRead_env_of_script (hz : lineGet s.drv l = .z) (hs : s.env.script = e :: rest) :
    (s.afterRead l).env = { s.env with held := e.foldl heldAfter s.env.held, script := rest } :=
  beforeRead_env_of_script hz hs

/-- A released button line reads 0 exactly if the line is held low after the batch. -/
theorem readsAs_btn_of_script {b : Button} (hz : lineGet s.drv (.btn b) = .z) (hs : s.env.script = e :: rest) :
    s.readsAs (.btn b) = false ↔ lineGet (e.foldl heldAfter s.env.held) (.btn b) = true := by
  simp [readsAs_btn, beforeRead_env_of_script hz hs, lineLevel, hz, levelOf]

end Scripted

/-! ### The three reads of the handler -/

theorem afterButtons_lineActivity (s : State) : LineActivity s s.afterButtons :=
  ((afterRead_lineActivity s _).trans (afterRead_lineActivity _ _)).trans (afterRead_lineActivity _ _)

@[simp] theorem State.afterButtons_drv (s : State) : s.afterButtons.drv = s.drv := by simp [State.afterButtons]

theorem afterButtons_eq (s : State) :
    s.afterButtons = { s with
      trace := s.afterButtons.trace, pend := s.afterButtons.pend, env := s.afterButtons.env,
      rtcChip := s.afterButtons.rtcChip, displays := s.afterButtons.displays } := by
  have h := (afterButtons_lineActivity s).1
  rw [State.afterButtons_drv] at h
  exact h

theorem afterButtons_trace (s : State) : s.afterButtons.trace = s.trace ++ buttonEvents s.buttonReads := by
  simp [State.afterButtons, buttonEvents, State.buttonReads]

theorem postedFor_of_find {b : Config.Board} {lv : Button → Bool} {x : Button}
    (h : [b.prio0, b.prio1, b.prio2].find? (fun y => !lv y) = some x) : postedFor b lv = buttonEvent x := by
  rw [postedFor, h]
  cases x <;> rfl

/-- The handler's nested choice is the search through BTN_PRIORITY (rule R291). -/
theorem buttonPosts_eq (s : State) : s.buttonPosts = postedFor s.board s.buttonReads := by
  unfold State.buttonPosts
  cases h0 : s.buttonReads s.board.prio0 with
  | false => simp [postedFor_of_find (x := s.board.prio0), h0]
  | true =>
    cases h1 : s.buttonReads s.board.prio1 with
    | false => simp [postedFor_of_find (x := s.board.prio1), h0, h1]
    | true =>
      cases h2 : s.buttonReads s.board.prio2 with
      | false => simp [postedFor_of_find (x := s.board.prio2), h0, h1, h2]
      | true => simp [postedFor, h0, h1, h2]

theorem buttonReads_of_high {s : State} {b : Button} (h : lineGet s.drv (.btn b) = .high) : s.buttonReads b = true := by
  cases b <;> exact readsAs_btn_of_high (by simpa using h)

theorem buttonReads_of_low {s : State} {b : Button} (h : lineGet s.drv (.btn b) = .low) : s.buttonReads b = false := by
  cases b <;> exact readsAs_btn_of_low (by simpa using h)

/-- With released lines each read is decided by the batches up to it, and three batches are used (rule R14, log 4). -/
theorem buttonReads_of_script {s : State} {e1 e2 e3 : List EnvEvent} {rest : List (List EnvEvent)}
    (hz : ∀ b, lineGet s.drv (.btn b) = .z) (hs : s.env.script = e1 :: e2 :: e3 :: rest) :
    (s.buttonReads .set = false ↔ lineGet (e1.foldl heldAfter s.env.held) (.btn .set) = true)
      ∧ (s.buttonReads .inc = false ↔ lineGet ((e1 ++ e2).foldl heldAfter s.env.held) (.btn .inc) = true)
      ∧ (s.buttonReads .dec = false ↔ lineGet ((e1 ++ e2 ++ e3).foldl heldAfter s.env.held) (.btn .dec) = true)
      ∧ s.afterButtons.env.script = rest := by
  have henv1 := afterRead_env_of_script (hz .set) hs
  have hz1 : ∀ b, lineGet (s.afterRead (.btn .set)).drv (.btn b) = .z := by simpa using hz
  have hs1 : (s.afterRead (.btn .set)).env.script = e2 :: e3 :: rest := by rw [henv1]
  have henv2 := afterRead_env_of_script (hz1 .inc) hs1
  have hz2 : ∀ b, lineGet ((s.afterRead (.btn .set)).afterRead (.btn .inc)).drv (.btn b) = .z := by simpa using hz
  have hs2 : ((s.afterRead (.btn .set)).afterRead (.btn .inc)).env.script = e3 :: rest := by rw [henv2]
  have henv3 := afterRead_env_of_script (hz2 .dec) hs2
  refine ⟨readsAs_btn_of_script (hz .set) hs, ?_, ?_, ?_⟩
  · rw [List.foldl_append]
    simpa [henv1, State.buttonReads] using readsAs_btn_of_script (hz1 .inc) hs1
  · rw [List.foldl_append, List.foldl_append]
    simpa [henv1, henv2, State.buttonReads] using readsAs_btn_of_script (hz2 .dec) hs2
  · rw [State.afterButtons, henv3]

/-! ### SEQ.WAIT -/

/-- The state in which the button handler starts when SEQ.WAIT found only the button pending: interrupts enabled, the latch cleared,
no choice between sources taken (rules R241, R277, R278). -/
def State.atButtonHandler (s : State) : State :=
  { s with ie := true, inHandler := true, pend := { timer := false, button := false } }

theorem enterHandler_of_buttonPending {s : State} (hp : s.pend = { timer := false, button := true }) :
    s.enable.enterHandler .button = s.atButtonHandler := by
  simp [State.atButtonHandler, State.enterHandler, State.enable, Env.afterPick, hp]

/-- The button handler from entry to return: the three reads and the one post (rules R280, R281). -/
theorem buttonHandler_return_eq (u : State) :
    u.buttonHandler.leaveHandler.disable = { u with
      trace := u.trace ++ buttonEvents u.buttonReads, pend := u.afterButtons.pend, env := u.afterButtons.env,
      rtcChip := u.afterButtons.rtcChip, displays := u.afterButtons.displays,
      evt := postedFor u.board u.buttonReads, inHandler := false, ie := false } := by
  rw [State.buttonHandler, buttonPosts_eq, afterButtons_eq u, afterButtons_trace]
  rfl

/-- SEQ.WAIT with only the button pending: the hold is empty and the button handler runs (rule R241). -/
theorem wait_of_buttonPending {s : State} (hmain : s.inHandler = false) (hp : s.pend = { timer := false, button := true }) :
    s.wait = some { s with
      trace := s.trace ++ buttonEvents s.atButtonHandler.buttonReads, pend := s.atButtonHandler.afterButtons.pend,
      env := s.atButtonHandler.afterButtons.env, rtcChip := s.atButtonHandler.afterButtons.rtcChip,
      displays := s.atButtonHandler.afterButtons.displays, evt := postedFor s.board s.atButtonHandler.buttonReads,
      ie := false } := by
  have hany : s.enable.anyPending = true := by simp [State.anyPending, hp]
  have hserved : s.enable.serviced = .button := by simp [State.serviced, hp]
  rw [State.wait, hold_of_pending _ hany, Option.map_some, State.service, hserved, State.handler,
    enterHandler_of_buttonPending hp, buttonHandler_return_eq]
  simp [State.atButtonHandler, hmain]

theorem inMain_of_main {s : State} (h : s.inHandler = false) (a : Answer) : inMain s a = a := by
  simp [inMain, h]

theorem waitThen_of_some {s t : State} (h : s.wait = some t) (f : State → State) : waitThen s f = .next (f t) := by
  simp [waitThen, h]

/-- Settles O44: the hold is empty, so SEQ.WAIT is the button handler, whose three reads are settled one by one. -/
theorem waitServicesThePendingButton : Obligations.WaitServicesThePendingButton := by
  unfold Obligations.WaitServicesThePendingButton
  intro s hmain hp
  have hexec := (inMain_of_main hmain _).trans (waitThen_of_some (wait_of_buttonPending hmain hp) id)
  refine ⟨_, s.atButtonHandler.buttonReads, hexec, rfl, rfl, rfl, (afterButtons_lineActivity s.atButtonHandler).2, ?_, ?_, ?_⟩
  · exact fun b => buttonReads_of_high (s := s.atButtonHandler)
  · exact fun b => buttonReads_of_low (s := s.atButtonHandler)
  · exact fun e1 e2 e3 rest => buttonReads_of_script (s := s.atButtonHandler)

end Sys2Proof.Machine
end

section
/-! PROOF. The trace is only appended to (rules R10, R73). An answer's postcondition is carried through the checks that refuse, and
every effect of an operation is a chain of line writes, reads and updates that leave the trace alone. -/

namespace Sys2Proof.Machine

/-! ### Postconditions of an answer -/

/-- Every next state the answer can be satisfies `P`. -/
def Ensures (P : State → Prop) (a : Answer) : Prop := ∀ t, a = .next t → P t

namespace Ensures
variable {P : State → Prop}

theorem next {s : State} (h : P s) : Ensures P (.next s) := by
  rintro _ ⟨⟩
  exact h

theorem fault (r : Fault) : Ensures P (.fault r) := by
  intro t h
  cases h

theorem refused (r : Refusal) : Ensures P (.refused r) := by
  intro t h
  cases h

theorem inMain {s : State} {a : Answer} (h : Ensures P a) : Ensures P (inMain s a) := by
  unfold Machine.inMain
  split
  · exact refused _
  · exact h

theorem inHandlerOnly {s : State} {a : Answer} (h : Ensures P a) : Ensures P (inHandlerOnly s a) := by
  unfold Machine.inHandlerOnly
  split
  · exact h
  · exact refused _

theorem withLine {id : BitVec 8} {f : Line → Answer} (h : ∀ l, Ensures P (f l)) : Ensures P (withLine id f) := by
  unfold Machine.withLine
  split
  · exact h _
  · exact refused _

theorem drivable {l : Line} {a : Answer} (h : Ensures P a) : Ensures P (drivable l a) := by
  cases l with
  | btn b => exact refused _
  | ddData | ddClk _ | rtcScl | rtcSda => exact h

theorem withChip {c : BitVec 4} {f : Chip → Answer} (h : ∀ k, Ensures P (f k)) : Ensures P (withChip c f) := by
  unfold Machine.withChip
  split
  · exact h _
  · exact refused _

theorem withEvent {e : BitVec 3} {f : Event → Answer} (h : ∀ v, Ensures P (f v)) : Ensures P (withEvent e f) := by
  unfold Machine.withEvent
  split
  · exact h _
  · exact refused _

theorem waitThen {s : State} {f : State → State} (h : ∀ t, s.wait = some t → P (f t)) : Ensures P (waitThen s f) := by
  unfold Machine.waitThen
  split
  · exact next (h _ ‹_›)
  · exact fault _

end Ensures

/-! ### The parts that append -/

/-- The trace of `t` is the trace of `s` with events appended. -/
def Extends (s t : State) : Prop := ∃ es, t.trace = s.trace ++ es

theorem Extends.trans {s t u : State} (h1 : Extends s t) (h2 : Extends t u) : Extends s u := by
  obtain ⟨a, ha⟩ := h1
  obtain ⟨b, hb⟩ := h2
  exact ⟨a ++ b, by rw [hb, ha, List.append_assoc]⟩

theorem Extends.of_eq {s t : State} (h : t.trace = s.trace) : Extends s t := ⟨[], by rw [h, List.append_nil]⟩

theorem Extends.withMail {s t : State} (h : Extends s t) (r : Byte) (e : Event) : Extends s (t.withMail r e) := h

theorem Extends.toPhase {s t : State} (h : Extends s t) (p : Phase) : Extends s (t.toPhase p) := h

theorem drive_extends (s : State) (ws : List (Line × Drive)) : Extends s (s.drive ws) := ⟨_, s.drive_trace ws⟩

theorem afterRead_extends (s : State) (l : Line) : Extends s (s.afterRead l) := ⟨_, s.afterRead_trace l⟩

theorem pinRead_extends (s : State) (l : Line) : Extends s (s.pinRead l) := afterRead_extends s l

theorem rxState_extends (n : Nat) (s : State) : Extends s (rxState n s) := ⟨_, rxState_trace n s⟩

theorem rx_extends (s : State) (ack : Bool) : Extends s (s.rx ack) := by
  rw [rx_eq]
  exact (((drive_extends s _).trans (rxState_extends 8 _)).trans (drive_extends _ _)).withMail _ _

theorem settle_extends (s : State) (new : TimeOfDay) : Extends s (s.settle new) := .of_eq (State.settle_trace s new)

/-! ### RTC -/

theorem rxMinutes_extends (s : State) : Extends s s.rxMinutes := (drive_extends s _).trans (rx_extends _ true)

theorem rxHours_extends (s : State) : Extends s s.rxHours := (rxMinutes_extends s).trans (rx_extends _ false)

theorem getTime_extends (s : State) : Extends s s.getTime :=
  ((rxHours_extends s).trans (drive_extends _ rtcStopWrites)).trans (settle_extends _ _)

theorem setTime_extends (s : State) : Extends s s.setTime := drive_extends s _

theorem readSeconds_extends (s : State) : Extends s s.readSeconds :=
  ((drive_extends s _).trans (rx_extends _ false)).trans (drive_extends _ rtcStopWrites)

theorem startClock_extends (s : State) : Extends s s.startClock := by
  unfold State.startClock
  split
  · exact drive_extends s _
  · exact .of_eq rfl

theorem rtcInit_extends (s : State) : Extends s s.rtcInit :=
  ((readSeconds_extends s).trans (startClock_extends _)).trans (getTime_extends _)

/-! ### Dispatch -/

theorem commit_extends (s : State) : Extends s s.commit := (setTime_extends s).trans (getTime_extends _)

theorem onSet_extends (s : State) : Extends s s.onSet := by
  unfold State.onSet
  split
  · exact .of_eq rfl
  · exact .of_eq rfl
  · exact .of_eq rfl
  · exact commit_extends s

@[simp] theorem State.onInc_trace (s : State) : s.onInc.trace = s.trace := by
  unfold State.onInc
  split <;> rfl

@[simp] theorem State.onDec_trace (s : State) : s.onDec.trace = s.trace := by
  unfold State.onDec
  split <;> rfl

theorem onEvent_extends (s : State) (e : Event) : Extends s (s.onEvent e) := by
  cases e with
  | setPressed => exact onSet_extends s
  | incPressed => exact .of_eq s.onInc_trace
  | decPressed => exact .of_eq s.onDec_trace
  | timeTick => exact getTime_extends s
  | none => exact .of_eq rfl

theorem dispatch_extends (s : State) : Extends s s.dispatch := onEvent_extends s s.evt

theorem dispatchPhase_extends (s : State) : Extends s s.dispatchPhase := dispatch_extends (s.toPhase .dispatch)

/-! ### Waiting -/

@[simp] theorem holdScript_trace (sc : List (List EnvEvent)) (s : State) : (holdScript sc s).trace = s.trace := by
  induction sc generalizing s with
  | nil => rfl
  | cons es sc ih =>
    unfold holdScript
    split
    · rfl
    · exact ih s.arrive

/-- The hold records nothing: the environment's events are not the block's line events. -/
theorem hold_trace {s t : State} (h : s.hold = some t) : t.trace = s.trace := by
  unfold State.hold at h
  simp only at h
  split at h
  · cases h
    exact holdScript_trace _ _
  · split at h
    · cases h
      exact holdScript_trace _ _
    · split at h
      · cases h
        exact holdScript_trace _ _
      · cases h

theorem handler_extends (s : State) (src : Source) : Extends s (s.handler src) := by
  cases src with
  | timer => exact .of_eq rfl
  | button => exact ⟨_, afterButtons_trace s⟩

theorem service_extends (s : State) : Extends s s.service := handler_extends (s.enterHandler s.serviced) s.serviced

theorem wait_extends {s t : State} (h : s.wait = some t) : Extends s t := by
  obtain ⟨u, hu, rfl⟩ := Option.map_eq_some_iff.1 h
  have hhold : Extends s u := .of_eq ((hold_trace hu).trans s.enable_trace)
  exact hhold.trans (service_extends u)

/-! ### The loop, the diagnostic and the boot -/

theorem ddPresent_extends (s : State) : Extends s s.ddPresent := drive_extends s _

theorem ddAllOn_extends (s : State) : Extends s s.ddAllOn := drive_extends s _

theorem iterate_extends (s : State) : Ensures (Extends s) (iterate s) := by
  unfold iterate
  split
  · exact .refused _
  · refine .waitThen fun t ht => ?_
    have hdraw : Extends s (if s.wantsRender then s.renderAndPresent else s) := by
      split
      · exact ddPresent_extends s.fbRender
      · exact .of_eq rfl
    have hclear (u : State) : Extends u (u.fbClear.toPhase .wait) := .of_eq rfl
    exact ((hdraw.trans (hclear _)).trans (wait_extends ht)).trans (dispatchPhase_extends t)

theorem lightBit_extends (s : State) (x : Nat × Nat) : Extends s (s.lightBit x) := by
  refine .trans ?_ (ddPresent_extends _)
  exact .of_eq rfl

theorem foldl_lightBit_extends (xs : List (Nat × Nat)) (s : State) : Extends s (xs.foldl State.lightBit s) := by
  induction xs generalizing s with
  | nil => exact .of_eq rfl
  | cons x xs ih => exact (lightBit_extends s x).trans (ih _)

theorem selfTest_extends (s : State) : Extends s s.selfTest := by
  have hclear (u : State) : Extends u u.fbClear.ddPresent := ddPresent_extends u.fbClear
  exact (foldl_lightBit_extends selfTestOrder s).trans (hclear _)

theorem bootChips_extends (s : State) : Extends s s.bootChips := by
  have hports : Extends s s.bootPorts := drive_extends s _
  exact ((hports.trans (rtcInit_extends _)).trans (ddPresent_extends _)).trans (ddAllOn_extends _)

theorem boot_extends (s : State) : Extends s s.boot := by
  have hread := (bootChips_extends s).trans (pinRead_extends s.bootChips (.btn s.board.selfTestBtn))
  have hdiagnostic (t : State) : Extends t (if t.res = 0 then t.selfTest else t) := by
    split
    · exact selfTest_extends t
    · exact .of_eq rfl
  exact (hread.trans (hdiagnostic _)).toPhase .render

/-- Whatever the operation, the state it completes in has the old trace at the head of its own. -/
theorem exec_extends (i : Instr) (s : State) : Ensures (Extends s) (exec i s) := by
  cases i with
  | pinSet id | pinClr id => exact .inMain (.withLine fun l => .drivable (.next (drive_extends s _)))
  | pinTri id => exact .inMain (.withLine fun l => .next (drive_extends s _))
  | pinRead id => exact .inMain (.withLine fun l => .next (pinRead_extends s l))
  | ddStart c | ddStop c | ddBit c _ | ddByte c _ | ddFrame c =>
    exact .inMain (.withChip fun k => .next (drive_extends s _))
  | ddPresent | ddAllon | rtcStart | rtcStop | rtcTx _ | rtcBegin _ _ | rtcSettime =>
    exact .inMain (.next (drive_extends s _))
  | rtcRx ack => exact .inMain (.next (rx_extends s ack))
  | rtcGettime => exact .inMain (.next (getTime_extends s))
  | rtcInit => exact .inMain (.next (rtcInit_extends s))
  | fbClear | evtTake => exact .inMain (.next (.of_eq rfl))
  | fbBigchar g c =>
    refine .inMain ?_
    split
    · exact .refused _
    · split
      · exact .refused _
      · exact .next (.of_eq rfl)
  | fbRender =>
    refine .inMain ?_
    split
    · exact .next (.of_eq rfl)
    · exact .refused _
  | seqBoot =>
    refine .inMain ?_
    split
    · exact .next (boot_extends s)
    all_goals exact .refused _
  | seqIter =>
    refine .inMain ?_
    split
    · exact iterate_extends s
    all_goals exact .refused _
  | seqWait => exact .inMain (.waitThen fun t ht => wait_extends ht)
  | seqDispatch => exact .inMain (.next (dispatch_extends s))
  | seqSelftest => exact .inMain (.next (selfTest_extends s))
  | evtPost e => exact .inHandlerOnly (.withEvent fun v => .next (.of_eq rfl))

/-- Settles O55: every arm of `exec` is a chain of parts that append. -/
theorem traceOnlyGrows : Obligations.TraceOnlyGrows := by
  unfold Obligations.TraceOnlyGrows
  exact fun i s t h => exec_extends i s t h

end Sys2Proof.Machine
end

section
/-! PROOF. Writes that change no line level are not observable (rules R10, R14, R120, R121; log 3): what one event adds to the
waveform, and what a write at the end of a trace adds. -/

namespace Sys2Proof.Machine

/-! ### One value per line -/

theorem lineOf_lineGet {α : Type} (m : LineMap α) : lineOf (lineGet m) = m := rfl

theorem lineMap_ext {α : Type} {m m' : LineMap α} (h : ∀ l, lineGet m l = lineGet m' l) : m = m' := by
  rw [← lineOf_lineGet m, ← lineOf_lineGet m', funext h]

/-- Writing the value a line already has changes nothing. -/
theorem lineSet_of_lineGet {α : Type} {m : LineMap α} {l : Line} {x : α} (h : lineGet m l = x) : lineSet m l x = m := by
  refine lineMap_ext fun l' => ?_
  rw [lineGet_lineSet]
  split
  · rename_i hl
    rw [hl, h]
  · rfl

/-- A write changes the vector of levels exactly if it changes the level of its own line. -/
theorem levels_lineSet_eq_iff (held : LineMap Bool) (drv : LineMap Drive) (l : Line) (v : Drive) :
    levels held drv = levels held (lineSet drv l v) ↔ lineLevel held (lineSet drv l v) l = lineLevel held drv l := by
  constructor
  · intro h
    have hl : lineGet (levels held drv) l = lineGet (levels held (lineSet drv l v)) l := by rw [← h]
    simpa [levels] using hl.symm
  · intro h
    refine lineMap_ext fun l' => ?_
    by_cases hl : l' = l
    · simp [levels, hl, h]
    · simp [levels, lineLevel, lineGet_lineSet, hl]

/-! ### What one event adds to the waveform -/

/-- Either way the search for the next change goes on from the element just met. -/
theorem changesFrom_cons {α : Type} [DecidableEq α] (x y : α) (l : List α) :
    changesFrom x (y :: l) = if x = y then changesFrom y l else y :: changesFrom y l := by
  rw [changesFrom]
  split
  · rename_i h
    rw [h]
  · rfl

theorem waveform_wrote (held : LineMap Bool) (drv : LineMap Drive) (l : Line) (v : Drive) (es : List LineEvent) :
    waveform held drv (.wrote l v :: es)
      = if levels held drv = levels held (lineSet drv l v) then waveform held (lineSet drv l v) es
        else levels held (lineSet drv l v) :: waveform held (lineSet drv l v) es :=
  changesFrom_cons _ _ _

theorem waveform_sampled (held : LineMap Bool) (drv : LineMap Drive) (l : Line) (b : Bool) (es : List LineEvent) :
    waveform held drv (.sampled l b :: es)
      = if levels held drv = levels (heldKnown held drv l b) drv then waveform (heldKnown held drv l b) drv es
        else levels (heldKnown held drv l b) drv :: waveform (heldKnown held drv l b) drv es :=
  changesFrom_cons _ _ _

theorem waveform_wrote_of_level_eq {held : LineMap Bool} {drv : LineMap Drive} {l : Line} {v : Drive} (es : List LineEvent)
    (h : lineLevel held (lineSet drv l v) l = lineLevel held drv l) :
    waveform held drv (.wrote l v :: es) = waveform held (lineSet drv l v) es := by
  rw [waveform_wrote, if_pos ((levels_lineSet_eq_iff held drv l v).2 h)]

theorem waveform_wrote_of_level_ne {held : LineMap Bool} {drv : LineMap Drive} {l : Line} {v : Drive} (es : List LineEvent)
    (h : lineLevel held (lineSet drv l v) l ≠ lineLevel held drv l) :
    waveform held drv (.wrote l v :: es) = levels held (lineSet drv l v) :: waveform held (lineSet drv l v) es := by
  rw [waveform_wrote, if_neg (mt (levels_lineSet_eq_iff held drv l v).1 h)]

/-- A leading write of the driver state the line has adds nothing, for it changes no driver state. -/
theorem waveform_wrote_of_unchanged {held : LineMap Bool} {drv : LineMap Drive} {l : Line} {v : Drive} (es : List LineEvent)
    (h : lineGet drv l = v) : waveform held drv (.wrote l v :: es) = waveform held drv es := by
  have hset := lineSet_of_lineGet h
  rw [waveform_wrote_of_level_eq es (by rw [hset]), hset]

/-- A last write of the driver state the line then has adds nothing: the events before it decide the waveform. -/
theorem waveform_append_wrote_of_unchanged {held : LineMap Bool} {drv : LineMap Drive} {l : Line} {v : Drive}
    (es : List LineEvent) (h : lineGet (drivenBy drv es) l = v) :
    waveform held drv (es ++ [.wrote l v]) = waveform held drv es := by
  induction es generalizing held drv with
  | nil => exact waveform_wrote_of_unchanged [] h
  | cons e es ih =>
    cases e with
    | wrote l' v' => rw [List.cons_append, waveform_wrote, waveform_wrote, ih h]
    | sampled l' b => rw [List.cons_append, waveform_sampled, waveform_sampled, ih h]

/-! ### PIN.SET and PIN.CLR -/

theorem withLine_of_some {id : BitVec 8} {l : Line} (h : lineOfId id = some l) (f : Line → Answer) : withLine id f = f l := by
  simp [withLine, h]

theorem drivable_of_not_btn {l : Line} (h : ∀ b, l ≠ .btn b) (a : Answer) : drivable l a = a := by
  cases l with
  | btn b => exact absurd rfl (h b)
  | ddData | ddClk _ | rtcScl | rtcSda => rfl

section Pins
variable {s : State} {id : BitVec 8} {l : Line}

theorem exec_pinSet_eq (hmain : s.inHandler = false) (hid : lineOfId id = some l) (hl : ∀ b, l ≠ .btn b) :
    exec (.pinSet id) s = .next (s.drive [(l, .high)]) := by
  rw [exec, execPinSet, inMain_of_main hmain, withLine_of_some hid, drivable_of_not_btn hl]

theorem exec_pinClr_eq (hmain : s.inHandler = false) (hid : lineOfId id = some l) (hl : ∀ b, l ≠ .btn b) :
    exec (.pinClr id) s = .next (s.drive [(l, .low)]) := by
  rw [exec, execPinClr, inMain_of_main hmain, withLine_of_some hid, drivable_of_not_btn hl]

/-- Driving a line to the state it has is recorded and seen nowhere else on the lines. -/
theorem drive_of_unchanged {v : Drive} {drv : LineMap Drive} (held : LineMap Bool) (hdrv : drivenBy drv s.trace = s.drv)
    (h : lineGet s.drv l = v) :
    (s.drive [(l, v)]).trace = s.trace ++ [.wrote l v] ∧ (s.drive [(l, v)]).drv = s.drv
      ∧ waveform held drv (s.drive [(l, v)]).trace = waveform held drv s.trace :=
  ⟨rfl, lineSet_of_lineGet h, waveform_append_wrote_of_unchanged s.trace (by rw [hdrv, h])⟩

end Pins

/-- Settles O60: a write changes the vector of levels exactly if it changes its own line's level, and a write of the state a line
has changes no driver state at all. -/
theorem unchangedWritesAreNotObservable : Obligations.UnchangedWritesAreNotObservable := by
  unfold Obligations.UnchangedWritesAreNotObservable
  refine ⟨fun held drv l v es => ?_, fun s id l held drv hmain hid hl hdrv => ⟨fun hhigh => ?_, fun hlow => ?_⟩⟩
  · exact ⟨waveform_wrote_of_unchanged es, waveform_wrote_of_level_eq es, waveform_wrote_of_level_ne es⟩
  · exact ⟨_, exec_pinSet_eq hmain hid hl, drive_of_unchanged held hdrv hhigh⟩
  · exact ⟨_, exec_pinClr_eq hmain hid hl, drive_of_unchanged held hdrv hlow⟩

end Sys2Proof.Machine
end

section
/-! PROOF. Who writes what (rules R21 to R36, R44): the parts of the state, what it means that a part is kept, and the parts that each
operation owns and may change. Every effect of an operation is a chain of smaller ones that keep all the parts but a few, so one walk
through `exec` gives both the registers' owners and what every operation keeps. -/

namespace Sys2Proof.Machine

/-! ### Parts of the state -/

/-- The parts of the state: first the registers that some operations own, then what no operation may break. -/
inductive Part where
  /-- MODE and SCRATCH, rules R23 and R24. -/
  | editing
  /-- TIME, REDRAW and RTC_INVALID, rules R21, R26 and R27. -/
  | clock
  /-- FB, rule R29. -/
  | frame
  /-- SEQ_PHASE, rule R44. -/
  | phase
  /-- PEND, rule R35. -/
  | latches
  /-- The parameters and tables, rules R8, R30 and R31. -/
  | tables
  /-- RTC_INVALID as a sticky flag, rule R27. -/
  | invalidFlag
  /-- SRC_EN, rule R34. -/
  | enables
  /-- IE and IN_HANDLER, rules R33 and R36. -/
  | context
  /-- TIME and SCRATCH inside their ranges, rules R22 and R219. -/
  | ranges
  /-- The memories in their canonical form and inside their bounds, rules R62, R65 and R66. -/
  | memories
  /-- The button lines released, rule R61. -/
  | buttons

/-- From `s` to `t` the part is kept: an owned register has its value (a latch that is set stays set), a sticky bit that is set stays
set, and what is in order stays in order. -/
def Keeps (p : Part) (s t : State) : Prop :=
  match p with
  | .editing => t.mode = s.mode ∧ t.scratch = s.scratch
  | .clock => t.time = s.time ∧ t.redraw = s.redraw ∧ t.rtcInvalid = s.rtcInvalid
  | .frame => t.fb = s.fb
  | .phase => t.seqPhase = s.seqPhase
  | .latches => (s.pend.timer = true → t.pend.timer = true) ∧ (s.pend.button = true → t.pend.button = true)
  | .tables => t.board = s.board
  | .invalidFlag => s.rtcInvalid = true → t.rtcInvalid = true
  | .enables => (s.srcEn.timer = true → t.srcEn.timer = true) ∧ (s.srcEn.button = true → t.srcEn.button = true)
  | .context => (s.ie = false → t.ie = false) ∧ (s.inHandler = false → t.inHandler = false)
  | .ranges => timeOk s.time ∧ scratchOk s.scratch → timeOk t.time ∧ scratchOk t.scratch
  | .memories => memoriesOk s → memoriesOk t
  | .buttons => (∀ b, lineGet s.drv (.btn b) = .z) → ∀ b, lineGet t.drv (.btn b) = .z

/-- From `s` to `t` no part but those of `W` is changed. -/
def WritesOnly (W : List Part) (s t : State) : Prop := ∀ p, p ∉ W → Keeps p s t

theorem Keeps.refl (p : Part) (s : State) : Keeps p s s := by
  cases p with
  | editing => exact ⟨rfl, rfl⟩
  | clock => exact ⟨rfl, rfl, rfl⟩
  | frame | phase | tables => exact rfl
  | latches | enables | context => exact ⟨id, id⟩
  | invalidFlag | ranges | memories | buttons => exact id

theorem Keeps.trans {p : Part} {s t u : State} (h1 : Keeps p s t) (h2 : Keeps p t u) : Keeps p s u := by
  cases p with
  | editing => exact ⟨h2.1.trans h1.1, h2.2.trans h1.2⟩
  | clock =>
    obtain ⟨htime, hredraw, hinvalid⟩ := h1
    obtain ⟨htime', hredraw', hinvalid'⟩ := h2
    exact ⟨htime'.trans htime, hredraw'.trans hredraw, hinvalid'.trans hinvalid⟩
  | frame | phase | tables => exact Eq.trans h2 h1
  | latches | enables | context => exact ⟨h2.1 ∘ h1.1, h2.2 ∘ h1.2⟩
  | invalidFlag | ranges | memories | buttons => exact h2 ∘ h1

section
variable {W : List Part} {s t u : State}

theorem WritesOnly.refl (s : State) : WritesOnly W s s := fun p _ => .refl p s

theorem WritesOnly.trans (h1 : WritesOnly W s t) (h2 : WritesOnly W t u) : WritesOnly W s u :=
  fun p hp => (h1 p hp).trans (h2 p hp)

/-- RES and the mailbox belong to no part. -/
theorem WritesOnly.withMail (h : WritesOnly W s t) (r : Byte) (e : Event) : WritesOnly W s (t.withMail r e) := h

theorem takeWord_writesOnly (s : State) : WritesOnly W s s.takeWord := fun p _ => Keeps.refl p s

/-! ### Registers -/

theorem setPhase_writesOnly (hW : .phase ∈ W) (p : Phase) : WritesOnly W s (s.toPhase p) := by
  intro q hq
  have hkeep := Keeps.refl q s
  cases q with
  | phase => exact absurd hW hq
  | _ => exact hkeep

theorem setRedraw_writesOnly (hW : .clock ∈ W) (r : Bool) : WritesOnly W s { s with redraw := r } := by
  intro p hp
  have hkeep := Keeps.refl p s
  cases p with
  | clock => exact absurd hW hp
  | _ => exact hkeep

theorem edit_writesOnly (hW : .editing ∈ W) (m : Mode) {x : Scratch}
    (hx : timeOk s.time → scratchOk s.scratch → scratchOk x) : WritesOnly W s { s with mode := m, scratch := x } := by
  intro p hp
  have hkeep := Keeps.refl p s
  cases p with
  | editing => exact absurd hW hp
  | ranges => exact fun ⟨ht, hs⟩ => ⟨ht, hx ht hs⟩
  | _ => exact hkeep

theorem settle_writesOnly (hW : .clock ∈ W) (new : TimeOfDay) : WritesOnly W s (s.settle new) := by
  intro p hp
  have hkeep := Keeps.refl p s
  unfold State.settle
  split
  · rename_i hvalid
    cases p with
    | clock => exact absurd hW hp
    | ranges => exact fun ⟨_, hx⟩ => ⟨.inl hvalid, hx⟩
    | _ => exact hkeep
  · cases p with
    | clock => exact absurd hW hp
    | invalidFlag => exact fun _ => rfl
    | _ => exact hkeep

theorem enableSources_writesOnly (s : State) : WritesOnly W s { s with srcEn := { timer := true, button := true } } := by
  intro p _
  have hkeep := Keeps.refl p s
  cases p with
  | enables => exact ⟨fun _ => rfl, fun _ => rfl⟩
  | _ => exact hkeep

/-! ### Context -/

theorem enable_writesOnly (hW : .context ∈ W) (s : State) : WritesOnly W s s.enable := by
  intro p hp
  have hkeep := Keeps.refl p s
  cases p with
  | context => exact absurd hW hp
  | _ => exact hkeep

theorem disable_writesOnly (s : State) : WritesOnly W s s.disable := by
  intro p _
  have hkeep := Keeps.refl p s
  cases p with
  | context => exact ⟨fun _ => rfl, id⟩
  | _ => exact hkeep

theorem leaveHandler_writesOnly (s : State) : WritesOnly W s s.leaveHandler := by
  intro p _
  have hkeep := Keeps.refl p s
  cases p with
  | context => exact ⟨id, fun _ => rfl⟩
  | _ => exact hkeep

theorem enterHandler_writesOnly (hctx : .context ∈ W) (hpend : .latches ∈ W) (s : State) (src : Source) :
    WritesOnly W s (s.enterHandler src) := by
  intro p hp
  have hkeep := Keeps.refl p s
  cases p with
  | context => exact absurd hctx hp
  | latches => exact absurd hpend hp
  | _ => exact hkeep

/-- Whatever the context was meanwhile, it is kept if interrupts are off and no handler runs at the end. -/
theorem WritesOnly.keepsContext (h : WritesOnly (.context :: W) s t) (hie : t.ie = false) (hmain : t.inHandler = false) :
    WritesOnly W s t := by
  intro p hp
  by_cases hc : p = .context
  · subst hc
    exact ⟨fun _ => hie, fun _ => hmain⟩
  · exact h p (by simp [hc, hp])

/-! ### Lines and chips -/

/-- The memories of the chips in their form (rules R65, R66). -/
def ChipsOk (s : State) : Prop := (∀ k, DisplayWf (nineGet s.displays k)) ∧ RtcWf s.rtcChip

/-- A frame buffer in its canonical form and inside its 144 cells (rule R62). -/
def FbWf (m : Memory) : Prop := memWf m = true ∧ memBelow 144 m = true

theorem memoriesOk_iff (s : State) : memoriesOk s ↔ FbWf s.fb ∧ ChipsOk s := and_assoc.symm

/-- Line activity that keeps the chips' memories and the button lines writes no part of the state. -/
theorem LineActivity.writesOnly (h : LineActivity s t) (hchips : ChipsOk s → ChipsOk t) (hbtn : Keeps .buttons s t) :
    WritesOnly W s t := by
  obtain ⟨heq, htimer, hbutton, -, -⟩ := h
  intro p _
  have hkeep := Keeps.refl p s
  cases p with
  | buttons => exact hbtn
  | latches => exact ⟨htimer, hbutton⟩
  | memories =>
    intro hs
    obtain ⟨hfb, hs⟩ := (memoriesOk_iff s).1 hs
    rw [memoriesOk_iff]
    refine ⟨?_, hchips hs⟩
    rw [heq]
    exact hfb
  | _ =>
    rw [heq]
    exact hkeep

/-- A sequence of writes that drives no button line, rule R125. -/
def SparesButtons (ws : List (Line × Drive)) : Prop := ∀ w ∈ ws, ∀ b, w.1 = .btn b → w.2 = .z

@[simp] theorem sparesButtons_nil : SparesButtons [] := nofun

@[simp] theorem sparesButtons_cons (w : Line × Drive) (ws : List (Line × Drive)) :
    SparesButtons (w :: ws) ↔ (∀ b, w.1 = .btn b → w.2 = .z) ∧ SparesButtons ws := List.forall_mem_cons

@[simp] theorem sparesButtons_append (u v : List (Line × Drive)) :
    SparesButtons (u ++ v) ↔ SparesButtons u ∧ SparesButtons v := List.forall_mem_append

theorem sparesButtons_flatMap {α : Type} {f : α → List (Line × Drive)} (h : ∀ x, SparesButtons (f x)) (xs : List α) :
    SparesButtons (xs.flatMap f) := by
  intro w hw
  obtain ⟨x, -, hx⟩ := List.mem_flatMap.1 hw
  exact h x w hx

/-- Writes that drive no button line leave released ones released. -/
theorem driveAll_btn {ws : List (Line × Drive)} (hws : SparesButtons ws) {drv : LineMap Drive} {b : Button}
    (h : lineGet drv (.btn b) = .z) : lineGet (driveAll drv ws) (.btn b) = .z := by
  induction ws generalizing drv with
  | nil => exact h
  | cons w ws ih =>
    obtain ⟨hw, hws⟩ := (sparesButtons_cons w ws).1 hws
    refine ih hws ?_
    rw [lineGet_lineSet]
    split
    · exact hw b (Eq.symm ‹_›)
    · exact h

theorem drive_writesOnly {ws : List (Line × Drive)} (hws : SparesButtons ws) (s : State) : WritesOnly W s (s.drive ws) := by
  refine (drive_lineActivity s ws).writesOnly (fun ⟨hdisplays, hrtc⟩ => ⟨fun k => ?_, ?_⟩) fun h b => driveAll_btn hws (h b)
  · simpa [State.drive] using displayRun_wf _ _ _ _ _ _ _ (hdisplays k)
  · exact rtcRun_wf _ _ _ _ _ hrtc

theorem absorb_writesOnly (s : State) (es : List EnvEvent) : WritesOnly W s (s.absorb es) := by
  have hact : LineActivity s (s.absorb es) := ⟨rfl, absorb_pendGrows s es⟩
  refine hact.writesOnly (fun ⟨hdisplays, hrtc⟩ => ⟨fun k => ?_, ?_⟩) id
  · simpa [State.absorb] using displayThrough_wf _ _ _ _ _ (hdisplays k)
  · exact rtcThrough_wf _ _ _ _ _ hrtc

theorem arrive_writesOnly (s : State) : WritesOnly W s s.arrive := absorb_writesOnly { s with env := s.env.afterBatch } _

theorem afterRead_writesOnly (s : State) (l : Line) : WritesOnly W s (s.afterRead l) := by
  have hbefore : WritesOnly W s (s.beforeRead l) := by
    unfold State.beforeRead
    split
    · exact arrive_writesOnly s
    · exact .refl s
  exact hbefore

theorem pinRead_writesOnly (s : State) (l : Line) : WritesOnly W s (s.pinRead l) := afterRead_writesOnly s l

/-! ### The sequences of writes -/

@[simp] theorem sparesButtons_startWrites (k : Chip) : SparesButtons (startWrites k) := by simp [startWrites]

@[simp] theorem sparesButtons_stopWrites (k : Chip) : SparesButtons (stopWrites k) := by simp [stopWrites]

@[simp] theorem sparesButtons_bitWrites (k : Chip) (b : Bool) : SparesButtons (bitWrites k b) := by
  simp [bitWrites, ddData, pulse]

@[simp] theorem sparesButtons_bitsWrites (k : Chip) (bs : List Bool) : SparesButtons (bitsWrites k bs) :=
  sparesButtons_flatMap (sparesButtons_bitWrites k) bs

@[simp] theorem sparesButtons_byteWrites (k : Chip) (v : Byte) : SparesButtons (byteWrites k v) :=
  sparesButtons_bitsWrites k _

@[simp] theorem sparesButtons_frameWrites (b : Config.Board) (fb : Memory) (k : Chip) : SparesButtons (frameWrites b fb k) := by
  simp [frameWrites, sendFrame]

theorem sparesButtons_presentWrites (b : Config.Board) (fb : Memory) : SparesButtons (presentWrites b fb) :=
  sparesButtons_flatMap (sparesButtons_frameWrites b fb) chips

theorem sparesButtons_allOnWrites (b : Config.Board) : SparesButtons (allOnWrites b) :=
  sparesButtons_flatMap (fun k => by simp) chips

@[simp] theorem sparesButtons_rtcStartWrites : SparesButtons rtcStartWrites := by simp [rtcStartWrites]

@[simp] theorem sparesButtons_rtcStopWrites : SparesButtons rtcStopWrites := by simp [rtcStopWrites]

@[simp] theorem sparesButtons_txWrites (v : Byte) : SparesButtons (txWrites v) := by
  have hbits : SparesButtons (msbFirst.flatMap fun i => sda (v.getLsbD i) :: pulse .rtcScl) :=
    sparesButtons_flatMap (fun i => by simp [sda, pulse]) msbFirst
  exact (sparesButtons_append _ _).2 ⟨hbits, by simp [pulse]⟩

@[simp] theorem sparesButtons_beginWrites (b : Config.Board) (dir : Dir) (reg : Byte) : SparesButtons (beginWrites b dir reg) := by
  cases dir <;> simp [beginWrites]

@[simp] theorem sparesButtons_ackWrites (ack : Bool) : SparesButtons (ackWrites ack) := by
  cases ack <;> simp [ackWrites, pulse]

@[simp] theorem sparesButtons_setTimeWrites (b : Config.Board) (sec min hour : Byte) :
    SparesButtons (setTimeWrites b sec min hour) := by
  simp [setTimeWrites]

/-- The port initialisation releases the button lines (rule R311). -/
theorem sparesButtons_portInitWrites (drv : LineMap Drive) : SparesButtons (portInitWrites drv) := by
  intro w hw b hb
  obtain ⟨l, -, rfl⟩ := List.mem_map.1 (List.mem_of_mem_filter hw)
  rw [show l = .btn b from hb, idleDrive]

/-! ### The frame buffer -/

theorem memWrite_fbWf {fb : Memory} (h : FbWf fb) {a : Nat} (ha : a < 144) (v : Byte) : FbWf (memWrite fb a v) :=
  ⟨memWf_memWrite _ _ _ h.1, memBelow_memWrite _ _ _ _ h.2 ha⟩

theorem cellAddr_lt (x : Cell) : cellAddr x < 144 := by
  have hr := x.row.isLt
  have hc := x.col.isLt
  unfold cellAddr fbAddr
  omega

theorem paint_fbWf {fb : Memory} (h : FbWf fb) (x : Cell) (v : Byte) : FbWf (paint x v fb) := memWrite_fbWf h (cellAddr_lt x) v

/-- A glyph that starts at column 19 or before fits in the grid (rule R201). -/
theorem bigChar_fbWf {fb : Memory} (h : FbWf fb) (b : Config.Board) (g : Nat) {col : Nat} (hcol : col ≤ 19) :
    FbWf (bigChar b g col fb) := by
  refine ⟨memWf_memWriteAll _ _ h.1, memBelow_memWriteAll _ _ _ h.2 fun w hw => ?_⟩
  simp only [glyphWrites, List.mem_flatMap, List.mem_map, List.mem_range] at hw
  obtain ⟨r, hr, c, hc, rfl⟩ := hw
  simp only [fbAddr]
  omega

/-- The colon is at most 4 columns wide, so the last digit still fits (rules R208, R209). -/
theorem slotCol_le (b : Config.Board) {slot : Nat} (h : slot < 4) : slotCol b slot ≤ 19 := by
  have hw := b.colonWidth.isLt
  unfold slotCol
  split <;> omega

theorem renderClock_fbWf {fb : Memory} (h : FbWf fb) (b : Config.Board) (t : TimeOfDay) : FbWf (renderClock b t fb) := by
  have hdigit {m : Memory} (hm : FbWf m) (g : Nat) {slot : Nat} (hs : slot < 4) : FbWf (bigChar b g (slotCol b slot) m) :=
    bigChar_fbWf hm b g (slotCol_le b hs)
  have hten : FbWf (if t.ht = 1 then bigChar b 1 (slotCol b 0) fb else fb) := by
    split
    · exact hdigit h 1 (by decide)
    · exact h
  have hhour := hdigit hten t.ho.toNat (slot := 1) (by decide)
  have hcolon := paint_fbWf (paint_fbWf hhour b.colonCell0 b.colonPattern0) b.colonCell1 b.colonPattern1
  exact hdigit (hdigit hcolon t.mt.toNat (slot := 2) (by decide)) t.mo.toNat (slot := 3) (by decide)

theorem renderSet_fbWf {fb : Memory} (h : FbWf fb) (b : Config.Board) (m : Mode) (x : Scratch) : FbWf (renderSet b m x fb) := by
  have hlabel := paint_fbWf (paint_fbWf (paint_fbWf h b.layout.label0 (segByte b.labelS))
    b.layout.label1 (segByte b.labelE)) b.layout.label2 (segByte b.labelT)
  unfold renderSet
  simp only
  split
  · have hten := paint_fbWf hlabel b.layout.ht (digitByte b (x.h.toNat / 10))
    exact paint_fbWf (paint_fbWf (paint_fbWf (paint_fbWf hten _ _) _ _) _ _) _ _
  · exact paint_fbWf (paint_fbWf (paint_fbWf (paint_fbWf hlabel _ _) _ _) _ _) _ _

theorem render_fbWf {fb : Memory} (h : FbWf fb) (b : Config.Board) (m : Mode) (t : TimeOfDay) (x : Scratch) :
    FbWf (render b m t x fb) := by
  cases m with
  | clock => exact renderClock_fbWf h b t
  | setHours | setMinutesTens | setMinutesOnes => exact renderSet_fbWf h b _ x

theorem setFb_writesOnly (hW : .frame ∈ W) {m : Memory} (hm : FbWf s.fb → FbWf m) : WritesOnly W s { s with fb := m } := by
  intro p hp
  have hkeep := Keeps.refl p s
  cases p with
  | frame => exact absurd hW hp
  | memories =>
    intro hs
    obtain ⟨hfb, hchips⟩ := (memoriesOk_iff s).1 hs
    exact (memoriesOk_iff _).2 ⟨hm hfb, hchips⟩
  | _ => exact hkeep

theorem fbClear_writesOnly (hW : .frame ∈ W) (s : State) : WritesOnly W s s.fbClear :=
  setFb_writesOnly hW fun _ => ⟨rfl, rfl⟩

theorem fbRender_writesOnly (hW : .frame ∈ W) (s : State) : WritesOnly W s s.fbRender :=
  setFb_writesOnly hW fun h => render_fbWf h s.board s.mode s.time s.scratch

/-! ### Display driver and diagnostic -/

theorem ddPresent_writesOnly (s : State) : WritesOnly W s s.ddPresent := drive_writesOnly (sparesButtons_presentWrites _ _) s

theorem ddAllOn_writesOnly (s : State) : WritesOnly W s s.ddAllOn := drive_writesOnly (sparesButtons_allOnWrites _) s

theorem lightBit_writesOnly (hW : .frame ∈ W) (s : State) {x : Nat × Nat} (hx : x.1 < 144) : WritesOnly W s (s.lightBit x) :=
  (setFb_writesOnly hW fun h => memWrite_fbWf h hx _).trans (ddPresent_writesOnly _)

theorem selfTestOrder_lt : ∀ x ∈ selfTestOrder, x.1 < 144 := by
  intro x hx
  simp only [selfTestOrder, List.mem_flatMap, List.mem_map, List.mem_range] at hx
  obtain ⟨r, hr, c, hc, b, -, rfl⟩ := hx
  simp only [fbAddr]
  omega

theorem foldl_lightBit_writesOnly (hW : .frame ∈ W) (xs : List (Nat × Nat)) (hxs : ∀ x ∈ xs, x.1 < 144) (s : State) :
    WritesOnly W s (xs.foldl State.lightBit s) := by
  induction xs generalizing s with
  | nil => exact .refl s
  | cons x xs ih =>
    obtain ⟨hx, hxs⟩ := List.forall_mem_cons.1 hxs
    exact (lightBit_writesOnly hW s hx).trans (ih hxs _)

theorem selfTest_writesOnly (hW : .frame ∈ W) (s : State) : WritesOnly W s s.selfTest :=
  ((foldl_lightBit_writesOnly hW selfTestOrder selfTestOrder_lt s).trans (fbClear_writesOnly hW _)).trans (ddPresent_writesOnly _)

/-! ### RTC -/

theorem rxState_writesOnly (n : Nat) (s : State) : WritesOnly W s (rxState n s) := by
  induction n generalizing s with
  | zero => exact .refl s
  | succ n ih =>
    have hbit : WritesOnly W s s.rxBit :=
      ((drive_writesOnly (by simp) s).trans (afterRead_writesOnly _ _)).trans (drive_writesOnly (by simp) _)
    exact hbit.trans (ih s.rxBit)

theorem rx_writesOnly (s : State) (ack : Bool) : WritesOnly W s (s.rx ack) := by
  rw [rx_eq]
  have hlines := (drive_writesOnly (by simp) s).trans (rxState_writesOnly (W := W) 8 (s.drive [(.rtcSda, .z)]))
  exact (hlines.trans (drive_writesOnly (by simp) _)).withMail _ _

theorem getTime_writesOnly (hW : .clock ∈ W) (s : State) : WritesOnly W s s.getTime := by
  have hminutes : WritesOnly W s s.rxMinutes := (drive_writesOnly (by simp) s).trans (rx_writesOnly _ true)
  have hhours : WritesOnly W s (s.rxHours.drive rtcStopWrites) :=
    (hminutes.trans (rx_writesOnly _ false)).trans (drive_writesOnly (by simp) _)
  exact hhours.trans (settle_writesOnly hW _)

theorem setTime_writesOnly (s : State) : WritesOnly W s s.setTime := drive_writesOnly (by simp) s

theorem rtcInit_writesOnly (hW : .clock ∈ W) (s : State) : WritesOnly W s s.rtcInit := by
  have hread : WritesOnly W s s.readSeconds :=
    ((drive_writesOnly (by simp) s).trans (rx_writesOnly _ false)).trans (drive_writesOnly (by simp) _)
  have hstart (t : State) : WritesOnly W t t.startClock := by
    unfold State.startClock
    split
    · exact drive_writesOnly (by simp) t
    · exact .refl t
  exact (hread.trans (hstart _)).trans (getTime_writesOnly hW _)

/-! ### Field edits and dispatch -/

/-- The digits of a time in range are in range for SCRATCH too, so a snapshot is (rules R219, R232). -/
theorem scratchOk_of_timeOk {t : TimeOfDay} (h : timeOk t) (hour : BitVec 4) : scratchOk { h := hour, mt := t.mt, mo := t.mo } := by
  rcases h with hvalid | rfl
  · simp only [validTime, Bool.and_eq_true, decide_eq_true_eq] at hvalid
    obtain ⟨⟨⟨⟨hmt, hmo⟩, -⟩, -⟩, -⟩ := hvalid
    exact ⟨hmt, hmo⟩
  · simp [scratchOk]

theorem incMt_le (x : BitVec 3) : (incMt x).toNat ≤ 5 := by
  revert x
  decide

theorem decMt_le {x : BitVec 3} (h : x.toNat ≤ 5) : (decMt x).toNat ≤ 5 := by
  revert x
  decide

theorem incMo_le (x : BitVec 4) : (incMo x).toNat ≤ 9 := by
  revert x
  decide

theorem decMo_le {x : BitVec 4} (h : x.toNat ≤ 9) : (decMo x).toNat ≤ 9 := by
  revert x
  decide

theorem commit_writesOnly (hW : .clock ∈ W) (s : State) : WritesOnly W s s.commit :=
  ((setTime_writesOnly s).trans (getTime_writesOnly hW _)).trans (setRedraw_writesOnly hW true)

theorem onSet_writesOnly (hedit : .editing ∈ W) (hclock : .clock ∈ W) (s : State) : WritesOnly W s s.onSet := by
  unfold State.onSet
  split
  · exact edit_writesOnly hedit _ fun ht _ => scratchOk_of_timeOk ht _
  · exact edit_writesOnly hedit _ fun _ hs => hs
  · exact edit_writesOnly hedit _ fun _ hs => hs
  · exact (commit_writesOnly hclock s).trans (edit_writesOnly hedit _ fun _ hs => hs)

theorem onInc_writesOnly (hW : .editing ∈ W) (s : State) : WritesOnly W s s.onInc := by
  unfold State.onInc
  split
  · exact .refl s
  · exact edit_writesOnly hW _ fun _ hs => hs
  · exact edit_writesOnly hW _ fun _ ⟨_, hmo⟩ => ⟨incMt_le _, hmo⟩
  · exact edit_writesOnly hW _ fun _ ⟨hmt, _⟩ => ⟨hmt, incMo_le _⟩

theorem onDec_writesOnly (hW : .editing ∈ W) (s : State) : WritesOnly W s s.onDec := by
  unfold State.onDec
  split
  · exact .refl s
  · exact edit_writesOnly hW _ fun _ hs => hs
  · exact edit_writesOnly hW _ fun _ ⟨hmt, hmo⟩ => ⟨decMt_le hmt, hmo⟩
  · exact edit_writesOnly hW _ fun _ ⟨hmt, hmo⟩ => ⟨hmt, decMo_le hmo⟩

theorem dispatch_writesOnly (hedit : .editing ∈ W) (hclock : .clock ∈ W) (s : State) : WritesOnly W s s.dispatch := by
  have harm : WritesOnly W s (s.onEvent s.evt) := by
    cases s.evt with
    | setPressed => exact onSet_writesOnly hedit hclock s
    | incPressed => exact onInc_writesOnly hedit s
    | decPressed => exact onDec_writesOnly hedit s
    | timeTick => exact getTime_writesOnly hclock s
    | none => exact .refl s
  exact harm.withMail _ .none

/-! ### Waiting -/

theorem holdScript_writesOnly (sc : List (List EnvEvent)) (s : State) : WritesOnly W s (holdScript sc s) := by
  induction sc generalizing s with
  | nil => exact .refl s
  | cons es sc ih =>
    unfold holdScript
    split
    · exact .refl s
    · exact (arrive_writesOnly s).trans (ih _)

theorem hold_writesOnly (h : s.hold = some t) : WritesOnly W s t := by
  have hscript := holdScript_writesOnly (W := W) s.env.script s
  unfold State.hold at h
  simp only at h
  split at h
  · cases h
    exact hscript
  · split at h
    · cases h
      exact hscript.trans (arrive_writesOnly _)
    · split at h
      · cases h
        exact (hscript.trans (arrive_writesOnly _)).trans (absorb_writesOnly _ _)
      · cases h

theorem handler_writesOnly (s : State) (src : Source) : WritesOnly W s (s.handler src) := by
  cases src with
  | timer => exact (WritesOnly.refl s).withMail _ _
  | button =>
    have hreads := ((afterRead_writesOnly s (.btn .set)).trans (afterRead_writesOnly _ (.btn .inc))).trans
      (afterRead_writesOnly (W := W) _ (.btn .dec))
    exact hreads.withMail _ _

theorem service_writesOnly (hctx : .context ∈ W) (hpend : .latches ∈ W) (s : State) : WritesOnly W s s.service :=
  ((enterHandler_writesOnly hctx hpend s s.serviced).trans (handler_writesOnly _ _)).trans (leaveHandler_writesOnly _)

/-- SEQ.WAIT clears a latch; interrupts are off and the main context runs when it is over (rules R241, R281). -/
theorem wait_writesOnly (hW : .latches ∈ W) (h : s.wait = some t) : WritesOnly W s t := by
  obtain ⟨u, hu, rfl⟩ := Option.map_eq_some_iff.1 h
  have hctx : Part.context ∈ .context :: W := List.mem_cons_self
  have hhold := (enable_writesOnly hctx s).trans (hold_writesOnly hu)
  have hservice := service_writesOnly hctx (List.mem_cons_of_mem _ hW) u
  exact ((hhold.trans hservice).trans (disable_writesOnly _)).keepsContext rfl rfl

/-! ### The loop and the boot -/

theorem clearRedraw_writesOnly (hW : .clock ∈ W) (s : State) : WritesOnly W s s.clearRedraw := setRedraw_writesOnly hW _

theorem renderAndPresent_writesOnly (hframe : .frame ∈ W) (hclock : .clock ∈ W) (s : State) :
    WritesOnly W s s.renderAndPresent :=
  ((fbRender_writesOnly hframe s).trans (ddPresent_writesOnly _)).trans (clearRedraw_writesOnly hclock _)

theorem dispatchPhase_writesOnly (hphase : .phase ∈ W) (hedit : .editing ∈ W) (hclock : .clock ∈ W) (s : State) :
    WritesOnly W s s.dispatchPhase :=
  ((setPhase_writesOnly hphase .dispatch).trans (dispatch_writesOnly hedit hclock _)).trans (setPhase_writesOnly hphase .render)

theorem iterate_writesOnly (hW : ∀ p ∈ [Part.editing, .clock, .frame, .phase, .latches], p ∈ W) (s : State) :
    Ensures (WritesOnly W s) (iterate s) := by
  obtain ⟨hedit, hclock, hframe, hphase, hpend⟩ : .editing ∈ W ∧ .clock ∈ W ∧ .frame ∈ W ∧ .phase ∈ W ∧ .latches ∈ W := by
    simpa using hW
  unfold iterate
  split
  · exact .refused _
  · refine .waitThen fun t ht => ?_
    have hdraw : WritesOnly W s (if s.wantsRender then s.renderAndPresent else s) := by
      split
      · exact renderAndPresent_writesOnly hframe hclock s
      · exact .refl s
    have hclear (u : State) : WritesOnly W u (u.fbClear.toPhase .wait) :=
      (fbClear_writesOnly hframe u).trans (setPhase_writesOnly hphase .wait)
    exact ((hdraw.trans (hclear _)).trans (wait_writesOnly hpend ht)).trans (dispatchPhase_writesOnly hphase hedit hclock t)

theorem bootPorts_writesOnly (s : State) : WritesOnly W s s.bootPorts :=
  (drive_writesOnly (sparesButtons_portInitWrites s.drv) s).trans (enableSources_writesOnly _)

/-- SEQ.BOOT after the sources are enabled (rule R245). -/
theorem boot_writesOnly_bootPorts (hclock : .clock ∈ W) (hframe : .frame ∈ W) (hphase : .phase ∈ W) (s : State) :
    WritesOnly W s.bootPorts s.boot := by
  have hchips := ((rtcInit_writesOnly hclock s.bootPorts).trans (ddPresent_writesOnly _)).trans (ddAllOn_writesOnly _)
  have hread := hchips.trans (pinRead_writesOnly s.bootChips (.btn s.board.selfTestBtn))
  have hdiagnostic (t : State) : WritesOnly W t (if t.res = 0 then t.selfTest else t) := by
    split
    · exact selfTest_writesOnly hframe t
    · exact .refl t
  exact (hread.trans (hdiagnostic _)).trans (setPhase_writesOnly hphase .render)

/-! ### Every operation -/

end

/-- The parts an operation owns and may change (rules R21, R23, R24, R26, R27, R29, R35, R44). -/
def ownedBy (i : Instr) : List Part :=
  match i with
  | .rtcGettime | .rtcInit => [.clock]
  | .fbClear | .fbBigchar _ _ | .fbRender | .seqSelftest => [.frame]
  | .seqBoot => [.clock, .frame, .phase]
  | .seqIter => [.editing, .clock, .frame, .phase, .latches]
  | .seqWait => [.latches]
  | .seqDispatch => [.editing, .clock]
  | .pinSet _ | .pinClr _ | .pinRead _ | .pinTri _ | .ddStart _ | .ddStop _ | .ddBit _ _ | .ddByte _ _ | .ddFrame _
  | .ddPresent | .ddAllon | .rtcStart | .rtcStop | .rtcTx _ | .rtcRx _ | .rtcBegin _ _ | .rtcSettime | .evtPost _
  | .evtTake => []

/-- PIN.SET and PIN.CLR are refused on a button line (rule R125). -/
theorem drivable_writesOnly (W : List Part) (s : State) (l : Line) (v : Drive) :
    Ensures (WritesOnly W s) (drivable l (.next (s.drive [(l, v)]))) := by
  cases l with
  | btn b => exact .refused _
  | ddData | ddClk _ | rtcScl | rtcSda => exact .next (drive_writesOnly (by simp) s)

/-- Whatever the operation, it changes no part but its own. -/
theorem exec_writesOnly (i : Instr) (s : State) : Ensures (WritesOnly (ownedBy i) s) (exec i s) := by
  cases i with
  | pinSet id | pinClr id => exact .inMain (.withLine fun l => drivable_writesOnly _ s l _)
  | pinTri id => exact .inMain (.withLine fun l => .next (drive_writesOnly (by simp) s))
  | pinRead id => exact .inMain (.withLine fun l => .next (pinRead_writesOnly s l))
  | ddStart c | ddStop c | ddBit c _ | ddByte c _ | ddFrame c =>
    exact .inMain (.withChip fun k => .next (drive_writesOnly (by simp) s))
  | ddPresent => exact .inMain (.next (ddPresent_writesOnly s))
  | ddAllon => exact .inMain (.next (ddAllOn_writesOnly s))
  | rtcStart | rtcStop | rtcTx _ | rtcBegin _ _ => exact .inMain (.next (drive_writesOnly (by simp) s))
  | rtcRx ack => exact .inMain (.next (rx_writesOnly s ack))
  | rtcGettime => exact .inMain (.next (getTime_writesOnly (by simp [ownedBy]) s))
  | rtcSettime => exact .inMain (.next (setTime_writesOnly s))
  | rtcInit => exact .inMain (.next (rtcInit_writesOnly (by simp [ownedBy]) s))
  | fbClear => exact .inMain (.next (fbClear_writesOnly (by simp [ownedBy]) s))
  | fbBigchar g c =>
    refine .inMain ?_
    split
    · exact .refused _
    · split
      · exact .refused _
      · rename_i hcol
        have hcol : c.toNat ≤ 19 := by simpa [colOk] using hcol
        exact .next (setFb_writesOnly (by simp [ownedBy]) fun h => bigChar_fbWf h s.board _ hcol)
  | fbRender =>
    refine .inMain ?_
    split
    · exact .next (fbRender_writesOnly (by simp [ownedBy]) s)
    · exact .refused _
  | seqBoot =>
    refine .inMain ?_
    split
    · exact .next ((bootPorts_writesOnly s).trans
        (boot_writesOnly_bootPorts (by simp [ownedBy]) (by simp [ownedBy]) (by simp [ownedBy]) s))
    all_goals exact .refused _
  | seqIter =>
    refine .inMain ?_
    split
    · exact iterate_writesOnly (fun p hp => hp) s
    all_goals exact .refused _
  | seqWait => exact .inMain (.waitThen fun t ht => wait_writesOnly (by simp [ownedBy]) ht)
  | seqDispatch => exact .inMain (.next (dispatch_writesOnly (by simp [ownedBy]) (by simp [ownedBy]) s))
  | seqSelftest => exact .inMain (.next (selfTest_writesOnly (by simp [ownedBy]) s))
  | evtPost e => exact .inHandlerOnly (.withEvent fun v => .next ((WritesOnly.refl s).withMail _ v))
  | evtTake => exact .inMain (.next ((WritesOnly.refl s).withMail _ .none))

/-! ### The owners -/

section
variable {i : Instr}

theorem editing_notMem_ownedBy (hd : i ≠ .seqDispatch) (hi : i ≠ .seqIter) : .editing ∉ ownedBy i := by
  cases i <;> simp_all [ownedBy]

theorem clock_notMem_ownedBy (hg : i ≠ .rtcGettime) (hr : i ≠ .rtcInit) (hd : i ≠ .seqDispatch) (hi : i ≠ .seqIter)
    (hb : i ≠ .seqBoot) : .clock ∉ ownedBy i := by
  cases i <;> simp_all [ownedBy]

theorem frame_notMem_ownedBy (hg : ∀ g c, i ≠ .fbBigchar g c) (hc : i ≠ .fbClear) (hr : i ≠ .fbRender) (hi : i ≠ .seqIter)
    (hb : i ≠ .seqBoot) (hs : i ≠ .seqSelftest) : .frame ∉ ownedBy i := by
  cases i <;> simp_all [ownedBy]

theorem phase_notMem_ownedBy (hb : i ≠ .seqBoot) (hi : i ≠ .seqIter) : .phase ∉ ownedBy i := by
  cases i <;> simp_all [ownedBy]

theorem latches_notMem_ownedBy (hw : i ≠ .seqWait) (hi : i ≠ .seqIter) : .latches ∉ ownedBy i := by
  cases i <;> simp_all [ownedBy]

end

/-- Settles O53: each register is a part, and `ownedBy` lists its owners. -/
theorem registersHaveTheirOwners : Obligations.RegistersHaveTheirOwners := by
  unfold Obligations.RegistersHaveTheirOwners
  intro i s t h
  have hkeeps := exec_writesOnly i s t h
  refine ⟨fun hd hi => ?_, fun hg hr hd hi hb => ?_, fun hg hc hr hi hb hs => ?_, fun hb hi => ?_⟩
  · exact hkeeps .editing (editing_notMem_ownedBy hd hi)
  · exact hkeeps .clock (clock_notMem_ownedBy hg hr hd hi hb)
  · exact hkeeps .frame (frame_notMem_ownedBy hg hc hr hi hb hs)
  · exact hkeeps .phase (phase_notMem_ownedBy hb hi)

/-- What no operation owns. -/
def unowned : List Part := [.tables, .invalidFlag, .enables, .context, .ranges, .memories, .buttons]

theorem notMem_ownedBy_of_unowned (i : Instr) : ∀ p ∈ unowned, p ∉ ownedBy i := by
  cases i <;> simp [unowned, ownedBy]

theorem exec_keeps_unowned (i : Instr) (s : State) : Ensures (fun t => ∀ p ∈ unowned, Keeps p s t) (exec i s) :=
  fun t h p hp => exec_writesOnly i s t h p (notMem_ownedBy_of_unowned i p hp)

/-- Settles O54: no operation owns the tables, the sticky flag or the enables, and only the two waiting ones own the latches. -/
theorem tablesAndStickyBitsStay : Obligations.TablesAndStickyBitsStay := by
  unfold Obligations.TablesAndStickyBitsStay
  intro i s t h
  have hkeeps := exec_keeps_unowned i s t h
  obtain ⟨htimer, hbutton⟩ := hkeeps .enables (by simp [unowned])
  refine ⟨hkeeps .tables (by simp [unowned]), hkeeps .invalidFlag (by simp [unowned]), htimer, hbutton, fun hw hi => ?_⟩
  exact exec_writesOnly i s t h .latches (latches_notMem_ownedBy hw hi)

end Sys2Proof.Machine
end

section
/-! PROOF. The machine's invariant (rules R22, R33, R36, R44, R61, R65, R219): what no operation breaks, and where SEQ.BOOT and
SEQ.ITER leave the sequencer. -/

namespace Sys2Proof.Machine

/-! ### One step is one operation -/

theorem step_of_empty_port {s : State} (h : s.port = []) : step s = sequencerGoes s.arrive := by
  simp [step, State.presented, h]

theorem step_of_port {s : State} {w : CmdWord} {rest : List CmdWord} (h : s.port = w :: rest) :
    step s = runWord w s.arrive.takeWord := by
  simp [step, State.presented, h]

theorem sequencerGoes_of_boot {s : State} (h : s.seqPhase = .boot) : sequencerGoes s = exec .seqBoot s := by
  simp [sequencerGoes, h, exec]

theorem sequencerGoes_of_render {s : State} (h : s.seqPhase = .render) : sequencerGoes s = exec .seqIter s := by
  simp [sequencerGoes, h, exec]

/-- Settles O6: the environment's chance to act changes neither the port nor the phase. -/
theorem sequencerGoesByItself : Obligations.SequencerGoesByItself := by
  unfold Obligations.SequencerGoesByItself
  intro s hport
  rw [step_of_empty_port hport]
  exact ⟨fun h => sequencerGoes_of_boot h, fun h => sequencerGoes_of_render h⟩

/-- A step that answers a next state in phase BOOT or RENDER has executed one operation, after the environment's chance to act and
perhaps the taking of a word. -/
theorem step_next {s t : State} (hphase : s.seqPhase = .boot ∨ s.seqPhase = .render) (h : step s = .next t) :
    (∃ i, exec i s.arrive = .next t) ∨ ∃ i, exec i s.arrive.takeWord = .next t := by
  cases hport : s.port with
  | nil =>
    rw [step_of_empty_port hport] at h
    rcases hphase with hboot | hrender
    · exact .inl ⟨.seqBoot, sequencerGoes_of_boot (s := s.arrive) hboot ▸ h⟩
    · exact .inl ⟨.seqIter, sequencerGoes_of_render (s := s.arrive) hrender ▸ h⟩
  | cons w rest =>
    rw [step_of_port hport, runWord] at h
    split at h
    · exact .inr ⟨_, h⟩
    · cases h

/-! ### The phase and the enables -/

/-- The sequencer is at boot, or at the top of an iteration with its sources enabled (rules R34, R44). -/
def PhaseOk (s : State) : Prop := s.seqPhase = .boot ∨ (s.seqPhase = .render ∧ s.srcEn = { timer := true, button := true })

theorem Keeps.srcEn {s t : State} (h : Keeps .enables s t) (hs : s.srcEn = { timer := true, button := true }) :
    t.srcEn = { timer := true, button := true } := by
  obtain ⟨htimer, hbutton⟩ := h
  have ht := htimer (by rw [hs])
  have hb := hbutton (by rw [hs])
  cases hen : t.srcEn
  simp_all

theorem PhaseOk.of_keeps {s t : State} (h : PhaseOk s) (hphase : Keeps .phase s t) (hen : Keeps .enables s t) : PhaseOk t := by
  have hsame : t.seqPhase = s.seqPhase := hphase
  obtain hboot | ⟨hrender, hsrc⟩ := h
  · exact .inl (hsame.trans hboot)
  · exact .inr ⟨hsame.trans hrender, hen.srcEn hsrc⟩

/-- SEQ.BOOT enables the sources first, and nothing after it disables one (rule R245). -/
theorem boot_srcEn (s : State) : s.boot.srcEn = { timer := true, button := true } := by
  have hafter : WritesOnly [.clock, .frame, .phase] s.bootPorts s.boot :=
    boot_writesOnly_bootPorts (by simp) (by simp) (by simp) s
  exact (hafter .enables (by simp)).srcEn rfl

theorem exec_seqBoot_phaseOk (s : State) : Ensures PhaseOk (exec .seqBoot s) := by
  refine .inMain ?_
  split
  · exact .next (.inr ⟨rfl, boot_srcEn s⟩)
  all_goals exact .refused _

/-- An iteration that completes is back at the top of the next one (rule R240). -/
theorem iterate_seqPhase (s : State) : Ensures (fun t => t.seqPhase = .render) (iterate s) := by
  unfold iterate
  split
  · exact .refused _
  · exact .waitThen fun t _ => rfl

theorem exec_seqIter_seqPhase (s : State) : Ensures (fun t => s.seqPhase = .render ∧ t.seqPhase = .render) (exec .seqIter s) := by
  refine .inMain ?_
  split
  · exact fun t ht => ⟨‹_›, iterate_seqPhase s t ht⟩
  all_goals exact .refused _

theorem exec_phaseOk (i : Instr) {s : State} (hs : PhaseOk s) : Ensures PhaseOk (exec i s) := by
  intro t h
  have hen := exec_keeps_unowned i s t h .enables (by simp [unowned])
  by_cases hb : i = .seqBoot
  · subst hb
    exact exec_seqBoot_phaseOk s t h
  by_cases hi : i = .seqIter
  · subst hi
    obtain ⟨hrender, hend⟩ := exec_seqIter_seqPhase s t h
    obtain hboot | ⟨-, hsrc⟩ := hs
    · exact absurd (hrender.symm.trans hboot) nofun
    · exact .inr ⟨hend, hen.srcEn hsrc⟩
  exact hs.of_keeps (exec_writesOnly i s t h .phase (phase_notMem_ownedBy hb hi)) hen

/-! ### The invariant -/

/-- What no operation owns is most of the invariant; the phase is the rest. -/
theorem State.Inv.of_keeps {s t : State} (hs : s.Inv) (h : ∀ p ∈ unowned, Keeps p s t) (hphase : PhaseOk t) : t.Inv := by
  simp only [unowned, List.forall_mem_cons] at h
  obtain ⟨htables, -, -, ⟨hie, hmain⟩, hranges, hmemories, hbuttons, -⟩ := h
  obtain ⟨htime, hscratch⟩ := hranges ⟨hs.time, hs.scratch⟩
  have hboard : t.board = s.board := htables
  exact
    { memories := hmemories hs.memories
      time := htime
      scratch := hscratch
      buttons := hbuttons hs.buttons
      masked := hie hs.masked
      main := hmain hs.main
      phase := hphase
      board := by rw [hboard, hs.board] }

theorem State.Inv.of_writesOnly_nil {s t : State} (hs : s.Inv) (h : WritesOnly [] s t) : t.Inv :=
  have hkeeps (p : Part) : Keeps p s t := h p List.not_mem_nil
  hs.of_keeps (fun p _ => hkeeps p) (PhaseOk.of_keeps hs.phase (hkeeps .phase) (hkeeps .enables))

theorem exec_inv (i : Instr) {s : State} (hs : s.Inv) : Ensures State.Inv (exec i s) :=
  fun t h => hs.of_keeps (exec_keeps_unowned i s t h) (exec_phaseOk i hs.phase t h)

/-- Settles O57: a step is one operation, which keeps what it does not own, and SEQ.BOOT and SEQ.ITER leave the sequencer at the top
of an iteration. -/
theorem everyStepKeepsTheInvariant : Obligations.EveryStepKeepsTheInvariant := by
  unfold Obligations.EveryStepKeepsTheInvariant
  intro s t hs h
  have harrive : s.arrive.Inv := hs.of_writesOnly_nil (arrive_writesOnly s)
  have htake : s.arrive.takeWord.Inv := harrive.of_writesOnly_nil (takeWord_writesOnly s.arrive)
  obtain ⟨i, hi⟩ | ⟨i, hi⟩ := step_next (hs.phase.imp_right And.left) h
  · exact exec_inv i harrive t hi
  · exact exec_inv i htake t hi

/-! ### Reset and loss of power -/

/-- The reference parameters, which stand in where the free ones are no valid set. -/
theorem refBoard_valid : Config.refBoard.valid = true := by decide +kernel

/-- Whatever the board is, its parameters meet the constraints (log 5). -/
theorem board_valid : Config.board.valid = true := by
  unfold Config.board
  split
  · assumption
  · exact refBoard_valid

/-- A memory filled from address 0 is canonical and ends where it was filled to. -/
theorem filled_wf (n : Nat) (f : Nat → Byte) :
    memWf (memWriteAll [] ((List.range n).map fun a => (a, f a))) = true
      ∧ memBelow n (memWriteAll [] ((List.range n).map fun a => (a, f a))) = true := by
  refine ⟨memWf_memWriteAll _ _ rfl, memBelow_memWriteAll _ _ _ rfl fun w hw => ?_⟩
  obtain ⟨a, ha, rfl⟩ := List.mem_map.1 hw
  exact List.mem_range.1 ha

theorem displaysAtReset_wf (n : Nat) (k : Chip) : DisplayWf (nineGet (nineOf (displayAtReset n)) k) := by
  simpa only [nineGet_nineOf, DisplayWf, displayAtReset] using filled_wf 16 (Config.displayByteAtPowerOn n k)

theorem rtcAtReset_wf (n : Nat) : RtcWf (rtcAtReset n) := by
  simpa only [RtcWf, rtcAtReset] using filled_wf 256 (Config.rtcByteAtPowerOn n)

/-- The registers that backup power keeps stay in their form, and so do free ones with the halt bit set (rule R314). -/
theorem rtcAfterPowerLoss_wf (b : Config.Board) (n : Nat) (backup : Bool) {c : Config.RtcChip} (h : RtcWf c) :
    RtcWf (rtcAfterPowerLoss b n backup c) := by
  cases backup with
  | true => exact h
  | false =>
    obtain ⟨hwf, hbelow⟩ := rtcAtReset_wf n
    simp only [RtcWf, rtcAfterPowerLoss, Bool.false_eq_true, if_false]
    exact ⟨memWf_memWrite _ _ _ hwf, memBelow_memWrite _ _ _ _ hbelow b.regSeconds.isLt⟩

theorem haltBit_or (sec : Byte) : haltBit (sec ||| 0x80) = true := by simp [haltBit]

/-- Without backup power the halt bit reads 1 (rule R314). -/
theorem rtcAfterPowerLoss_haltBit (b : Config.Board) (n : Nat) (c : Config.RtcChip) :
    haltBit (memRead (rtcAfterPowerLoss b n false c).regs b.regSeconds.toNat) = true := by
  have hread := memRead_memWrite (rtcAtReset n).regs b.regSeconds.toNat
    (memRead (rtcAtReset n).regs b.regSeconds.toNat ||| 0x80) b.regSeconds.toNat (rtcAtReset_wf n).1
  rw [if_pos rfl] at hread
  simp only [rtcAfterPowerLoss, Bool.false_eq_true, if_false, hread, haltBit_or]

/-- The reset table says nothing of the parameters, the environment and the chips. -/
theorem hasResetValues_reset (b : Config.Board) (e : Env) (c : Config.RtcChip) (d : Nine Config.DisplayChip) :
    HasResetValues { State.reset with board := b, env := e, rtcChip := c, displays := d } where
  time := rfl
  scratch := rfl
  res := rfl
  redraw := rfl
  rtcInvalid := rfl
  mode := rfl
  evt := rfl
  ie := rfl
  srcEn := rfl
  pend := rfl
  inHandler := rfl
  seqPhase := rfl
  fb := fun _ _ _ _ => rfl
  ddData := rfl
  ddClk := fun k => lineGet_lineOf idleDrive (.ddClk k)
  rtcScl := rfl
  rtcSda := rfl
  btn := fun b => lineGet_lineOf idleDrive (.btn b)

/-- Settles O8: a loss of power leaves the reset state but for the parameters, the environment and the chips. -/
theorem resetLeavesTheTableValues : Obligations.ResetLeavesTheTableValues := by
  unfold Obligations.ResetLeavesTheTableValues
  refine ⟨hasResetValues_reset _ _ _ _, rfl, board_valid, fun s backup => ?_⟩
  exact ⟨hasResetValues_reset _ _ _ _, rfl, rfl, rtcAfterPowerLoss_haltBit s.board (s.env.drawn + 1) s.rtcChip⟩

/-- A state with the reset values is in the invariant as soon as its frame buffer and its chips are in their form and its parameters
valid. -/
theorem HasResetValues.inv {s : State} (h : HasResetValues s) (hfb : s.fb = []) (hchips : ChipsOk s)
    (hboard : s.board.valid = true) : s.Inv where
  memories := (memoriesOk_iff s).2 ⟨by rw [hfb]; exact ⟨rfl, rfl⟩, hchips⟩
  time := .inr h.time
  scratch := by rw [h.scratch]; exact ⟨by decide, by decide⟩
  buttons := h.btn
  masked := h.ie
  main := h.inHandler
  phase := .inl h.seqPhase
  board := hboard

/-- Settles O56: the reset values are in the invariant, and the chips come up in their form. -/
theorem invariantHoldsAtReset : Obligations.InvariantHoldsAtReset := by
  unfold Obligations.InvariantHoldsAtReset
  refine ⟨(hasResetValues_reset _ _ _ _).inv rfl ⟨displaysAtReset_wf 0, rtcAtReset_wf 0⟩ board_valid, fun s backup hs => ?_⟩
  obtain ⟨-, -, hrtc⟩ := (memoriesOk_iff s).1 hs.memories
  exact (hasResetValues_reset _ _ _ _).inv rfl ⟨displaysAtReset_wf _, rtcAfterPowerLoss_wf _ _ _ hrtc⟩ hs.board

end Sys2Proof.Machine
end

section
/-! PROOF. CELL_MAP is a bijection (rules R71, R72): the validity check makes its 144 entries distinct, and the grid has 144 cells. -/

namespace Sys2Proof.Machine

/-- The check `distinct` is the library's `Nodup`. -/
theorem distinct_iff_nodup {α : Type} [DecidableEq α] (l : List α) : Config.distinct l = true ↔ l.Nodup := by
  induction l with
  | nil => simp [Config.distinct]
  | cons x xs ih => simp [Config.distinct, ih]

theorem cellMapOk_of_valid {b : Config.Board} (h : b.valid = true) : Config.cellMapOk b.cellMap = true := by
  simp only [Config.Board.valid, Bool.and_eq_true, and_assoc] at h
  obtain ⟨-, -, -, -, hmap, -⟩ := h
  exact hmap

theorem cellMap_length_nodup {b : Config.Board} (h : b.valid = true) : b.cellMap.length = 144 ∧ b.cellMap.Nodup := by
  have hmap := cellMapOk_of_valid h
  simp only [Config.cellMapOk, Bool.and_eq_true, beq_iff_eq, distinct_iff_nodup] at hmap
  exact hmap.1

/-- Row and column of the cell of a chip and a slot: `mapCell` between two finite types of 144 elements. -/
def mapCoords (b : Config.Board) (p : Chip × Fin 16) : Fin 6 × Fin 24 := ((mapCell b p.1 p.2).row, (mapCell b p.1 p.2).col)

theorem mapCoords_eq_iff (b : Config.Board) (p : Chip × Fin 16) (x : Cell) :
    mapCoords b p = (x.row, x.col) ↔ mapCell b p.1 p.2 = x := by
  constructor
  · intro h
    obtain ⟨hrow, hcol⟩ := Prod.mk.inj h
    calc mapCell b p.1 p.2 = ⟨(mapCell b p.1 p.2).row, (mapCell b p.1 p.2).col⟩ := rfl
      _ = x := by rw [hrow, hcol]
  · rintro rfl
    rfl

theorem mapCoords_injective {b : Config.Board} (h : b.valid = true) : Function.Injective (mapCoords b) := by
  obtain ⟨hlen, hnodup⟩ := cellMap_length_nodup h
  rintro ⟨k, j⟩ ⟨k', j'⟩ he
  have hcell : mapCell b k j = mapCell b k' j' := (mapCoords_eq_iff b (k, j) (mapCell b k' j')).1 he
  have hi : 16 * k.val + j.val < b.cellMap.length := by omega
  have hi' : 16 * k'.val + j'.val < b.cellMap.length := by omega
  rw [mapCell, mapCell, List.getD_eq_getElem _ _ hi, List.getD_eq_getElem _ _ hi', hnodup.getElem_inj_iff] at hcell
  simp only [Prod.mk.injEq, Fin.ext_iff]
  omega

theorem mapCoords_bijective {b : Config.Board} (h : b.valid = true) : Function.Bijective (mapCoords b) :=
  (Fintype.bijective_iff_injective_and_card _).2 ⟨mapCoords_injective h, by simp⟩

/-- Settles O19: an injection of the 144 pairs into the 144 cells is onto. -/
theorem cellMapIsABijection : Obligations.CellMapIsABijection := by
  unfold Obligations.CellMapIsABijection
  intro b hb x
  obtain ⟨⟨k, j⟩, hx, huniq⟩ := (mapCoords_bijective hb).existsUnique (x.row, x.col)
  refine ⟨k, j, j.isLt, (mapCoords_eq_iff b (k, j) x).1 hx, fun k' j' hj' hx' => ?_⟩
  have hp := huniq (k', ⟨j', hj'⟩) ((mapCoords_eq_iff b (k', ⟨j', hj'⟩) x).2 hx')
  obtain ⟨hk, hj⟩ := Prod.mk.inj hp
  exact ⟨hk, congrArg Fin.val hj⟩

end Sys2Proof.Machine
end

section
/-! PROOF. What the display chips make of the block's writes (rules R65, R77, R123, R130 to R135; log 7): no chip's memory changes
but by a clock edge; and while the block drives a chip's two lines, the chip goes with every sequence of writes from one state of its
receiver to another whatever the environment does, so that the bytes of a bracket are a fold of `displayByte`. -/

namespace Sys2Proof.Machine

/-! ### Edges -/

/-- What a rising clock does to the chip when the data line is at `bit`. -/
def displayClocked (b : Config.Board) (d : Config.DisplayChip) (bit : Bool) : Config.DisplayChip :=
  displayEdge b d bit false bit true

/-- A chip at the opening of a bracket: it waits for the command byte. -/
def bracketOpened (d : Config.DisplayChip) : Config.DisplayChip :=
  { d with inBracket := true, first := true, shift := 0, count := 0 }

section Edges
variable (b : Config.Board) (d : Config.DisplayChip)

theorem displayEdge_of_clock_low (x x' : Bool) : displayEdge b d x false x' false = d := by simp [displayEdge]

theorem displayEdge_of_clock_fall (x : Bool) : displayEdge b d x true x false = d := by simp [displayEdge]

/-- The data line falls while the clock is high: a bracket opens, wherever the receiver stood. -/
theorem displayEdge_of_data_fall : displayEdge b d true true false true = bracketOpened d := rfl

variable {b d}

theorem displayClocked_of_inBracket (h : d.inBracket = true) (bit : Bool) : displayClocked b d bit = displayBit b d bit := by
  simp [displayClocked, displayEdge, h]

/-- Before its eighth bit a byte is only gathered. -/
theorem displayBit_of_count_ne (h : d.count ≠ 7) (bit : Bool) :
    displayBit b d bit
      = { d with shift := d.shift ||| ((BitVec.ofBool bit).setWidth 8 <<< d.count), count := d.count + 1 } := by
  simp [displayBit, h]

theorem displayBit_of_count_eq (h : d.count = 7) (bit : Bool) :
    displayBit b d bit
      = displayByte b { d with shift := 0, count := 0 } (d.shift ||| ((BitVec.ofBool bit).setWidth 8 <<< 7)) := by
  simp [displayBit, h]

theorem displayEdge_mem_of_clock_steady (x x' c : Bool) : (displayEdge b d x c x' c).mem = d.mem := by
  cases c with
  | false => rw [displayEdge_of_clock_low]
  | true => cases x <;> cases x' <;> rfl

theorem displayClocked_mem_of_count_ne (h : d.count ≠ 7) (bit : Bool) : (displayClocked b d bit).mem = d.mem := by
  cases hin : d.inBracket with
  | true => rw [displayClocked_of_inBracket hin, displayBit_of_count_ne h]
  | false => simp [displayClocked, displayEdge, hin]

end Edges

/-! ### What every chip's memory keeps -/

section Memory
variable {b : Config.Board} {d : Config.DisplayChip}

theorem displayByte_memWf (v : Byte) (h : memWf d.mem = true) : memWf (displayByte b d v).mem = true := by
  unfold displayByte
  split
  · exact h
  · show memWf (if d.addr < 16 then memWrite d.mem d.addr v else d.mem) = true
    split
    · exact memWf_memWrite _ _ _ h
    · exact h

theorem displayBit_memWf (bit : Bool) (h : memWf d.mem = true) : memWf (displayBit b d bit).mem = true := by
  unfold displayBit
  split
  · exact displayByte_memWf _ h
  · exact h

theorem displayGoes_memWf (l l' : Bool × Bool) (h : memWf d.mem = true) : memWf (displayGoes b d l l').mem = true := by
  show memWf (displayEdge b d l.1 l.2 l'.1 l'.2).mem = true
  unfold displayEdge
  split
  · exact h
  · split
    · exact h
    · split
      · exact displayBit_memWf _ h
      · exact h

theorem displayFloats_memWf (k : Chip) (drv : LineMap Drive) (levels : List (LineMap Bool)) (h : memWf d.mem = true) :
    memWf (displayFloats b k drv levels d).mem = true := by
  unfold displayFloats
  split
  · induction levels generalizing d with
    | nil => exact h
    | cons x levels ih => exact ih (displayGoes_memWf _ _ h)
  · exact h

/-- No sequence of writes takes a display chip's memory out of its canonical form, whatever its entries' addresses are. -/
theorem displayRun_memWf (float : Nat → List (LineMap Bool)) (n : Nat) (k : Chip) (drv : LineMap Drive)
    (ws : List (Line × Drive)) (h : memWf d.mem = true) : memWf (displayRun b float n k drv d ws).mem = true := by
  induction ws generalizing n drv d with
  | nil => exact h
  | cons w ws ih => exact ih _ _ (displayFloats_memWf _ _ _ (displayGoes_memWf _ _ h))

/-! ### A chip whose clock is driven and not written -/

theorem displayGoes_mem_of_clock_steady {l l' : Bool × Bool} (h : l.2 = l'.2) : (displayGoes b d l l').mem = d.mem := by
  show (displayEdge b d l.1 l.2 l'.1 l'.2).mem = d.mem
  rw [h, displayEdge_mem_of_clock_steady]

/-- A driven line is at its driver's level, whatever else is said of it. -/
theorem levelOf_of_driven {v : Drive} (h : v ≠ .z) (x y : Bool) : levelOf v x = levelOf v y := by
  cases v with
  | z => exact absurd rfl h
  | low | high => rfl

/-- A chip sees the same level on its clock as long as its clock's driver state is the same and not Z. -/
theorem displayLevels_clock_eq {k : Chip} {drv drv' : LineMap Drive} (h : lineGet drv (.ddClk k) ≠ .z)
    (h' : lineGet drv' (.ddClk k) = lineGet drv (.ddClk k)) (f f' : Bool × Bool) :
    (displayLevels k drv f).2 = (displayLevels k drv' f').2 := by
  simp only [displayLevels, h']
  exact levelOf_of_driven h _ _

theorem displayFloats_mem_of_driven_clock {k : Chip} {drv : LineMap Drive} (h : lineGet drv (.ddClk k) ≠ .z)
    (levels : List (LineMap Bool)) : (displayFloats b k drv levels d).mem = d.mem := by
  unfold displayFloats
  split
  · induction levels generalizing d with
    | nil => rfl
    | cons x levels ih => exact ih.trans (displayGoes_mem_of_clock_steady (displayLevels_clock_eq h rfl _ _))
  · rfl

/-- Without an edge of its own clock a chip stores nothing, whatever its data line does (rule R123). -/
theorem displayRun_mem_of_driven_clock {k : Chip} {drv : LineMap Drive} (float : Nat → List (LineMap Bool)) (n : Nat)
    {ws : List (Line × Drive)} (hws : ∀ w ∈ ws, w.1 ≠ .ddClk k) (h : lineGet drv (.ddClk k) ≠ .z) :
    (displayRun b float n k drv d ws).mem = d.mem := by
  induction ws generalizing n drv d with
  | nil => rfl
  | cons w ws ih =>
    obtain ⟨hw, hrest⟩ := List.forall_mem_cons.1 hws
    have hsame : lineGet (lineSet drv w.1 w.2) (.ddClk k) = lineGet drv (.ddClk k) := by
      rw [lineGet_lineSet, if_neg (Ne.symm hw)]
    have hdriven : lineGet (lineSet drv w.1 w.2) (.ddClk k) ≠ .z := by rwa [hsame]
    calc (displayRun b float n k drv d (w :: ws)).mem
        = (displayFloats b k (lineSet drv w.1 w.2) (float n) (displayWrite b k drv (lineSet drv w.1 w.2) d)).mem :=
          ih (n + 1) hrest hdriven
      _ = (displayWrite b k drv (lineSet drv w.1 w.2) d).mem := displayFloats_mem_of_driven_clock hdriven _
      _ = d.mem := displayGoes_mem_of_clock_steady (displayLevels_clock_eq h hsame _ _)

end Memory

/-! ### Writes while both lines are driven -/

/-- The driver state that gives a line the level `x`. -/
def driveTo (x : Bool) : Drive := if x then .high else .low

@[simp] theorem levelOf_driveTo (x held : Bool) : levelOf (driveTo x) held = x := by cases x <;> rfl

theorem driveTo_ne_z (x : Bool) : driveTo x ≠ .z := by cases x <;> decide

/-- The block drives the data line and chip `k`'s clock, to the levels `l`. -/
def DrivesTo (k : Chip) (drv : LineMap Drive) (l : Bool × Bool) : Prop :=
  lineGet drv .ddData = driveTo l.1 ∧ lineGet drv (.ddClk k) = driveTo l.2

/-- The chip without the levels it last saw, which do not count while its lines are driven. -/
def unseen (d : Config.DisplayChip) : Config.DisplayChip := { d with data := false, clk := false }

/-- With chip `k`'s lines driven to the levels `l`, the writes drive them to `l'` and take the chip from `d` to `d'` (up to the levels
last seen), wherever in the trace they stand. -/
def Takes (b : Config.Board) (k : Chip) (ws : List (Line × Drive)) (l : Bool × Bool) (d : Config.DisplayChip) (l' : Bool × Bool)
    (d' : Config.DisplayChip) : Prop :=
  ∀ float n drv d0, DrivesTo k drv l → unseen d0 = d →
    DrivesTo k (driveAll drv ws) l' ∧ unseen (displayRun b float n k drv d0 ws) = d'

@[simp] theorem unseen_mem (d : Config.DisplayChip) : (unseen d).mem = d.mem := rfl

section Takes
variable {b : Config.Board} {k : Chip} {d d1 d2 : Config.DisplayChip} {l l1 l2 : Bool × Bool}

theorem DrivesTo.levels {drv : LineMap Drive} (h : DrivesTo k drv l) (f : Bool × Bool) : displayLevels k drv f = l := by
  simp [displayLevels, h.1, h.2]

theorem DrivesTo.floats {drv : LineMap Drive} (h : DrivesTo k drv l) (levels : List (LineMap Bool)) :
    displayFloats b k drv levels d = d := by
  refine displayFloats_of_driven b k drv levels d ?_ ?_
  · rw [h.1]; exact driveTo_ne_z _
  · rw [h.2]; exact driveTo_ne_z _

theorem Takes.nil : Takes b k [] l d l d := fun _ _ _ _ hl hd => ⟨hl, hd⟩

theorem Takes.append {u v : List (Line × Drive)} (hu : Takes b k u l d l1 d1) (hv : Takes b k v l1 d1 l2 d2) :
    Takes b k (u ++ v) l d l2 d2 := by
  intro float n drv d0 hl hd
  obtain ⟨hl1, hd1⟩ := hu float n drv d0 hl hd
  rw [driveAll_append, displayRun_append]
  exact hv _ _ _ _ hl1 hd1

theorem Takes.unseen_run {ws : List (Line × Drive)} (h : Takes b k ws l (unseen d) l1 d1) {drv : LineMap Drive}
    (hl : DrivesTo k drv l) (float : Nat → List (LineMap Bool)) (n : Nat) : unseen (displayRun b float n k drv d ws) = d1 :=
  (h float n drv d hl rfl).2

theorem unseen_displayByte (v : Byte) : unseen (displayByte b d v) = displayByte b (unseen d) v := by
  unfold displayByte
  show _ = if d.first then _ else _
  split <;> rfl

theorem unseen_displayBit (bit : Bool) : unseen (displayBit b d bit) = displayBit b (unseen d) bit := by
  unfold displayBit
  show _ = if d.count = 7 then _ else _
  split
  · exact unseen_displayByte _
  · rfl

/-- What an edge does to the receiver does not depend on the levels last seen. -/
theorem unseen_displayGoes : unseen (displayGoes b d l l1) = displayEdge b (unseen d) l.1 l.2 l1.1 l1.2 := by
  show unseen (displayEdge b d l.1 l.2 l1.1 l1.2) = _
  unfold displayEdge
  split
  · rfl
  · split
    · rfl
    · show _ = if (_ && d.inBracket) = true then _ else _
      split
      · exact unseen_displayBit _
      · rfl

/-- One write that leaves both lines driven is the edge between the two pairs of levels. -/
theorem Takes.write {w : Line × Drive} (h : ∀ drv, DrivesTo k drv l → DrivesTo k (lineSet drv w.1 w.2) l1) :
    Takes b k [w] l d l1 (displayEdge b d l.1 l.2 l1.1 l1.2) := by
  intro float n drv d0 hl hd
  have hl1 := h drv hl
  refine ⟨hl1, ?_⟩
  show unseen (displayFloats b k (lineSet drv w.1 w.2) (float n) (displayWrite b k drv (lineSet drv w.1 w.2) d0)) = _
  rw [hl1.floats, displayWrite, displaySeen, hl.levels, hl1.levels, unseen_displayGoes, hd]

theorem Takes.data (x x' c : Bool) : Takes b k [(.ddData, driveTo x')] (x, c) d (x', c) (displayEdge b d x c x' c) :=
  .write fun drv hl => ⟨by simp [lineGet_lineSet], by simpa [lineGet_lineSet] using hl.2⟩

theorem Takes.clock (x c c' : Bool) : Takes b k [(.ddClk k, driveTo c')] (x, c) d (x, c') (displayEdge b d x c x c') :=
  .write fun drv hl => ⟨by simpa [lineGet_lineSet] using hl.1, by simp [lineGet_lineSet]⟩

/-! ### The protocol's pieces -/

/-- A start on idle lines opens a bracket, wherever the receiver stood (rule R131). -/
theorem takes_startWrites : Takes b k (startWrites k) (true, true) d (false, false) (bracketOpened d) := by
  have hopen := Takes.data (b := b) (k := k) (d := d) true false true
  have hfall := hopen.append (.clock false true false)
  rw [displayEdge_of_data_fall, displayEdge_of_clock_fall] at hfall
  exact hfall

/-- A bit is clocked in while the clock is high (rule R133). -/
theorem takes_bitWrites (x bit : Bool) : Takes b k (bitWrites k bit) (x, false) d (bit, false) (displayClocked b d bit) := by
  have hdata := Takes.data (b := b) (k := k) (d := d) x bit false
  have hfall := (hdata.append (.clock bit false true)).append (.clock bit true false)
  rw [displayEdge_of_clock_fall, displayEdge_of_clock_low] at hfall
  exact hfall

/-- After the bits the clock is low and the data line driven. -/
theorem takes_bitsWrites (bits : List Bool) (x : Bool) :
    ∃ x', Takes b k (bitsWrites k bits) (x, false) d (x', false) (bits.foldl (displayClocked b) d) := by
  induction bits generalizing x d with
  | nil => exact ⟨x, .nil⟩
  | cons bit bits ih =>
    obtain ⟨x', hrest⟩ := ih (d := displayClocked b d bit) bit
    exact ⟨x', (takes_bitWrites x bit).append hrest⟩

end Takes

/-! ### Bytes of a bracket -/

section Bytes
variable {b : Config.Board} {k : Chip} {d : Config.DisplayChip}

/-- Any writes followed by a stop leave both lines high, whatever they were (rule R132). -/
theorem drivesTo_stopWrites (k : Chip) (drv : LineMap Drive) (ws : List (Line × Drive)) :
    DrivesTo k (driveAll drv (ws ++ stopWrites k)) (true, true) := by
  rw [driveAll_append]
  constructor <;> simp [stopWrites, lineGet_lineSet, driveTo]

/-- A stop clocks one bit in and then closes the bracket (rule R132). -/
theorem takes_stopWrites (x : Bool) :
    Takes b k (stopWrites k) (x, false) d (true, true) (displayEdge b (displayClocked b d false) false true true true) := by
  have hlow := Takes.data (b := b) (k := k) (d := d) x false false
  have hstop := (hlow.append (.clock false false true)).append (.data false true true)
  rw [displayEdge_of_clock_low] at hstop
  exact hstop

/-- The chip is in a bracket and has no bit of the next byte. -/
structure AtByteStart (d : Config.DisplayChip) : Prop where
  bracket : d.inBracket = true
  shift : d.shift = 0
  count : d.count = 0

/-- At the start of a byte a stop stores nothing. -/
theorem stop_mem (h : AtByteStart d) : (displayEdge b (displayClocked b d false) false true true true).mem = d.mem := by
  have hcount : d.count ≠ 7 := by rw [h.count]; decide
  rw [displayEdge_mem_of_clock_steady, displayClocked_mem_of_count_ne hcount]

/-- The low `n` bits of a byte. -/
def lowBits (v : Byte) (n : Nat) : Byte := (v.setWidth n).setWidth 8

theorem getLsbD_lowBits (v : Byte) (n i : Nat) : (lowBits v n).getLsbD i = (decide (i < n) && v.getLsbD i) := by
  by_cases hi : i < 8
  · simp [lowBits, hi]
  · simp [BitVec.getLsbD_of_ge _ i (Nat.le_of_not_lt hi)]

/-- A bit is gathered above those before it. -/
theorem lowBits_succ (v : Byte) (n : Nat) :
    lowBits v n ||| ((BitVec.ofBool (v.getLsbD n)).setWidth 8 <<< n) = lowBits v (n + 1) := by
  refine BitVec.eq_of_getLsbD_eq fun i hi => ?_
  rw [BitVec.getLsbD_or, getLsbD_lowBits, getLsbD_lowBits, BitVec.getLsbD_shiftLeft, BitVec.getLsbD_setWidth, BitVec.getLsbD_ofBool]
  rcases Nat.lt_trichotomy i n with h | rfl | h
  · simp [h, Nat.lt_succ_of_lt h]
  · simp [hi]
  · simp [Nat.not_lt.2 h.le, Nat.not_lt.2 (Nat.succ_le_of_lt h), Nat.sub_ne_zero_of_lt h]

theorem lowBits_eight (v : Byte) : lowBits v 8 = v := by simp [lowBits]

/-- The chip with the first `n` bits of the byte `v` gathered. -/
def gathered (d : Config.DisplayChip) (v : Byte) (n : Nat) : Config.DisplayChip := { d with shift := lowBits v n, count := n }

theorem gathered_zero (h : AtByteStart d) (v : Byte) : gathered d v 0 = d := by
  have hlow : lowBits v 0 = d.shift := by
    rw [h.shift]
    exact BitVec.eq_of_getLsbD_eq fun i _ => by simp [getLsbD_lowBits]
  rw [gathered, hlow, ← h.count]

theorem displayClocked_gathered (h : AtByteStart d) (v : Byte) {n : Nat} (hn : n < 7) :
    displayClocked b (gathered d v n) (v.getLsbD n) = gathered d v (n + 1) := by
  have hin : (gathered d v n).inBracket = true := h.bracket
  have hcount : (gathered d v n).count ≠ 7 := Nat.ne_of_lt hn
  rw [displayClocked_of_inBracket hin, displayBit_of_count_ne hcount, gathered, gathered, lowBits_succ]

/-- The eighth bit completes the byte. -/
theorem displayClocked_gathered_seven (h : AtByteStart d) (v : Byte) :
    displayClocked b (gathered d v 7) (v.getLsbD 7) = displayByte b d v := by
  have hin : (gathered d v 7).inBracket = true := h.bracket
  have hstart : { gathered d v 7 with shift := 0, count := 0 } = d := by rw [gathered, ← h.shift, ← h.count]
  rw [displayClocked_of_inBracket hin, displayBit_of_count_eq rfl, hstart, gathered, lowBits_succ, lowBits_eight]

theorem foldl_displayClocked_range (h : AtByteStart d) (v : Byte) {n : Nat} (hn : n ≤ 7) :
    ((List.range n).map v.getLsbD).foldl (displayClocked b) d = gathered d v n := by
  induction n with
  | zero => exact (gathered_zero h v).symm
  | succ n ih =>
    rw [List.range_succ, List.map_append, List.foldl_append, ih (by omega)]
    exact displayClocked_gathered h v hn

/-- Eight bits, bit 0 first, are one byte to the chip (rule R134). -/
theorem foldl_displayClocked_bitsLsbFirst (h : AtByteStart d) (v : Byte) :
    (bitsLsbFirst v).foldl (displayClocked b) d = displayByte b d v := by
  rw [bitsLsbFirst, List.range_succ, List.map_append, List.foldl_append, foldl_displayClocked_range h v le_rfl]
  exact displayClocked_gathered_seven h v

theorem displayByte_atByteStart (h : AtByteStart d) (v : Byte) : AtByteStart (displayByte b d v) := by
  obtain ⟨hin, hshift, hcount⟩ := h
  unfold displayByte
  split
  · exact ⟨hin, hshift, hcount⟩
  · exact ⟨hin, hshift, hcount⟩

theorem foldl_displayByte_atByteStart (h : AtByteStart d) (vs : List Byte) : AtByteStart (vs.foldl (displayByte b) d) := by
  induction vs generalizing d with
  | nil => exact h
  | cons v vs ih => exact ih (displayByte_atByteStart h v)

/-- The bytes of a bracket come in one after the other. -/
theorem takes_bytes (h : AtByteStart d) (vs : List Byte) (x : Bool) :
    ∃ x', Takes b k (vs.flatMap (byteWrites k)) (x, false) d (x', false) (vs.foldl (displayByte b) d) := by
  induction vs generalizing x d with
  | nil => exact ⟨x, .nil⟩
  | cons v vs ih =>
    obtain ⟨x1, hbyte⟩ := takes_bitsWrites (b := b) (k := k) (d := d) (bitsLsbFirst v) x
    rw [foldl_displayClocked_bitsLsbFirst h] at hbyte
    obtain ⟨x2, hrest⟩ := ih (displayByte_atByteStart h v) x1
    exact ⟨x2, hbyte.append hrest⟩

/-! ### Storing -/

/-- Later bytes of a bracket are stored from the address pointer on (rule R65). -/
theorem foldl_displayByte_mem (hfirst : d.first = false) (vs : List Byte) (hfit : d.addr + vs.length ≤ 16) :
    (vs.foldl (displayByte b) d).mem = memWriteAll d.mem ((List.range' d.addr vs.length).zip vs) := by
  induction vs generalizing d with
  | nil => rfl
  | cons v vs ih =>
    rw [List.length_cons] at hfit
    have hstore : displayByte b d v = { d with mem := memWrite d.mem d.addr v, addr := d.addr + 1 } := by
      simp [displayByte, hfirst, show d.addr < 16 by omega]
    have hrest : (displayByte b d v).addr + vs.length ≤ 16 := by
      rw [hstore]
      show d.addr + 1 + vs.length ≤ 16
      omega
    rw [List.foldl_cons, ih (by rw [hstore]; exact hfirst) hrest, hstore]
    rfl

/-- A command byte `cmdAddr0` puts the address pointer at 0 (rule R77). -/
theorem displayByte_of_cmdAddr0 (hfirst : d.first = true) :
    (displayByte b d b.cmdAddr0).first = false ∧ (displayByte b d b.cmdAddr0).addr = 0
      ∧ (displayByte b d b.cmdAddr0).mem = d.mem := by
  simp [displayByte, hfirst]

end Bytes

end Sys2Proof.Machine
end

section
/-! PROOF. DD.FRAME fills the addressed chip's memory (rules R65, R130, R135, R140 to R142; log 7): the bit-planes are the wire bytes, the
second bracket stores them, and no other chip's clock moves. -/

namespace Sys2Proof.Machine

/-! ### Rows and wire bytes -/

theorem getLsbD_byteOfBits (bits : List Bool) {i : Nat} (hi : i < 8) : (byteOfBits bits).getLsbD i = bits.getD i false := by
  induction bits generalizing i with
  | nil => simp [byteOfBits]
  | cons bit bits ih =>
    cases i with
    | zero => simp [byteOfBits]
    | succ i =>
      have hrest := ih (i := i) (by omega)
      simp only [byteOfBits, BitVec.getLsbD_or, BitVec.getLsbD_shiftLeft, List.getD_cons_succ, ← hrest]
      simp [hi]

/-- A byte made of eight bits is sent as those bits (rules R134, R142). -/
theorem bitsLsbFirst_byteOfBits {bits : List Bool} (h : bits.length = 8) : bitsLsbFirst (byteOfBits bits) = bits := by
  refine List.ext_getElem (by simp [bitsLsbFirst, h]) fun i hi hi' => ?_
  calc (bitsLsbFirst (byteOfBits bits))[i]
      = (byteOfBits bits).getLsbD i := by simp only [bitsLsbFirst, List.getElem_map, List.getElem_range]
    _ = bits.getD i false := getLsbD_byteOfBits bits (by omega)
    _ = bits[i] := List.getD_eq_getElem bits false hi'

/-- The bit-planes of a frame are its wire bytes, each sent bit 0 first (rule R142). -/
theorem planes_eq_wireBytes {rowA rowB : List Byte} (hA : rowA.length = 8) (hB : rowB.length = 8) :
    planes rowA rowB = (wireBytes rowA rowB).flatMap bitsLsbFirst := by
  simp [planes, wireBytes, List.flatMap_assoc, bitsLsbFirst_byteOfBits, hA, hB]

theorem bitsWrites_planes (k : Chip) {rowA rowB : List Byte} (hA : rowA.length = 8) (hB : rowB.length = 8) :
    bitsWrites k (planes rowA rowB) = (wireBytes rowA rowB).flatMap (byteWrites k) := by
  rw [planes_eq_wireBytes hA hB, bitsWrites, List.flatMap_assoc]
  rfl

/-- The bytes of a frame and the addresses they are stored at (rule R65). -/
def frameStores (rowA rowB : List Byte) : List (Nat × Byte) := (List.range' 0 16).zip (wireBytes rowA rowB)

theorem frameStores_eq (rowA rowB : List Byte) :
    frameStores rowA rowB = (List.range 8).flatMap fun p =>
      [(2 * p, byteOfBits (rowA.map fun v => v.getLsbD p)), (2 * p + 1, byteOfBits (rowB.map fun v => v.getLsbD p))] := rfl

theorem length_wireBytes (rowA rowB : List Byte) : (wireBytes rowA rowB).length = 16 := rfl

theorem frameStores_addresses_nodup (rowA rowB : List Byte) : ((frameStores rowA rowB).map (·.1)).Nodup := by
  have hfst : (frameStores rowA rowB).map (·.1) = List.range' 0 16 := rfl
  rw [hfst]
  exact List.nodup_range'

section Stores
variable {m : Memory} (hm : memWf m = true) {rowA rowB : List Byte}
include hm

theorem memRead_frameStores_of_mem {a : Nat} {v : Byte} (h : (a, v) ∈ frameStores rowA rowB) :
    memRead (memWriteAll m (frameStores rowA rowB)) a = v :=
  memRead_memWriteAll_of_mem _ m a v hm (frameStores_addresses_nodup rowA rowB) h

/-- Bytes `2p` and `2p + 1` of a stored frame are plane `p` of its two rows (rule R142). -/
theorem memRead_frameStores {p : Nat} (hp : p < 8) :
    memRead (memWriteAll m (frameStores rowA rowB)) (2 * p) = byteOfBits (rowA.map fun v => v.getLsbD p)
      ∧ memRead (memWriteAll m (frameStores rowA rowB)) (2 * p + 1) = byteOfBits (rowB.map fun v => v.getLsbD p) := by
  constructor
  · refine memRead_frameStores_of_mem hm ?_
    rw [frameStores_eq]
    exact List.mem_flatMap.2 ⟨p, List.mem_range.2 hp, by simp⟩
  · refine memRead_frameStores_of_mem hm ?_
    rw [frameStores_eq]
    exact List.mem_flatMap.2 ⟨p, List.mem_range.2 hp, by simp⟩

end Stores

/-! ### A frame -/

section Frame
variable {b : Config.Board} {k : Chip} {d : Config.DisplayChip}

/-- A frame's first bracket up to its stop: the auto-increment command (rules R77, R135). -/
def commandWrites (b : Config.Board) (k : Chip) : List (Line × Drive) := startWrites k ++ byteWrites k b.cmdAutoInc

/-- A frame's second bracket: the address command and then the wire bytes (rules R135, R142). -/
def dataWrites (b : Config.Board) (k : Chip) (rowA rowB : List Byte) : List (Line × Drive) :=
  startWrites k ++ (b.cmdAddr0 :: wireBytes rowA rowB).flatMap (byteWrites k) ++ stopWrites k

theorem sendFrame_eq {rowA rowB : List Byte} (hA : rowA.length = 8) (hB : rowB.length = 8) :
    sendFrame b k rowA rowB = commandWrites b k ++ stopWrites k ++ dataWrites b k rowA rowB := by
  simp only [sendFrame, commandWrites, dataWrites, List.flatMap_cons, bitsWrites_planes k hA hB, List.append_assoc]

/-- The second bracket on idle lines: the address pointer goes to 0 and the 16 bytes are stored from there on (rule R65). -/
theorem takes_dataWrites (rowA rowB : List Byte) :
    ∃ d', Takes b k (dataWrites b k rowA rowB) (true, true) d (true, true) d'
      ∧ d'.mem = memWriteAll d.mem (frameStores rowA rowB) := by
  have hstart : AtByteStart (bracketOpened d) := ⟨rfl, rfl, rfl⟩
  obtain ⟨x, hbytes⟩ := takes_bytes (b := b) (k := k) hstart (b.cmdAddr0 :: wireBytes rowA rowB) false
  obtain ⟨hfirst, haddr, hmem⟩ := displayByte_of_cmdAddr0 (b := b) (d := bracketOpened d) rfl
  refine ⟨_, (takes_startWrites.append hbytes).append (takes_stopWrites x), ?_⟩
  have hfit : (displayByte b (bracketOpened d) b.cmdAddr0).addr + (wireBytes rowA rowB).length ≤ 16 := by
    rw [haddr, length_wireBytes]
  rw [stop_mem (foldl_displayByte_atByteStart hstart _), List.foldl_cons, foldl_displayByte_mem hfirst _ hfit, haddr, hmem]
  rfl

/-- After a stop the second bracket stores the frame, whatever came before: the stop has left both lines idle and the start resets the
receiver. -/
theorem displayRun_stop_dataWrites_mem (float : Nat → List (LineMap Bool)) (n : Nat) (drv : LineMap Drive) (u : List (Line × Drive))
    (rowA rowB : List Byte) :
    (displayRun b float n k drv d (u ++ stopWrites k ++ dataWrites b k rowA rowB)).mem
      = memWriteAll (displayRun b float n k drv d (u ++ stopWrites k)).mem (frameStores rowA rowB) := by
  rw [displayRun_append]
  generalize displayRun b float n k drv d (u ++ stopWrites k) = d1
  obtain ⟨d', htakes, hmem⟩ := takes_dataWrites (b := b) (k := k) (d := unseen d1) rowA rowB
  rw [← unseen_mem, htakes.unseen_run (drivesTo_stopWrites k drv u), hmem, unseen_mem]

end Frame

/-! ### DD.FRAME -/

theorem chipOf_of_toNat {c : BitVec 4} {k : Chip} (h : c.toNat = k.val) : chipOf c = some k := by
  simp [chipOf, h]

theorem withChip_of_toNat {c : BitVec 4} {k : Chip} (h : c.toNat = k.val) (f : Chip → Answer) : withChip c f = f k := by
  rw [withChip, chipOf_of_toNat h]

theorem exec_ddFrame_eq {s : State} {c : BitVec 4} {k : Chip} (hmain : s.inHandler = false) (hc : c.toNat = k.val) :
    exec (.ddFrame c) s = .next (s.drive (frameWrites s.board s.fb k)) := by
  rw [exec, execDdFrame, inMain_of_main hmain, withChip_of_toNat hc]

theorem drive_displays (s : State) (ws : List (Line × Drive)) (k : Chip) :
    nineGet (s.drive ws).displays k = displayRun s.board (Config.floatingLevels s.env.drawn) s.trace.length k s.drv
      (nineGet s.displays k) ws := nineGet_nineOf _ k

@[simp] theorem length_frameRow (b : Config.Board) (fb : Memory) (k : Chip) (j : Nat) : (frameRow b fb k j).length = 8 := by
  simp [frameRow]

/-- Bit `i` of plane `p` of eight slots is bit `p` of the slot's cell (rules R135, R142). -/
theorem getLsbD_plane_frameRow (b : Config.Board) (fb : Memory) (k : Chip) (j : Nat) {p i : Nat} (hi : i < 8) :
    (byteOfBits ((frameRow b fb k j).map fun v => v.getLsbD p)).getLsbD i = (chipCells b (memRead fb) k (j + i)).getLsbD p := by
  rw [getLsbD_byteOfBits _ hi]
  simp [frameRow, hi, chipCells, mapCell, cellAddr, fbAddr]

/-! The protocol writes the data line and the addressed chip's clock only (rule R130). -/

theorem startWrites_lines (k : Chip) : ∀ w ∈ startWrites k, w.1 = .ddData ∨ w.1 = .ddClk k := by simp [startWrites]

theorem stopWrites_lines (k : Chip) : ∀ w ∈ stopWrites k, w.1 = .ddData ∨ w.1 = .ddClk k := by simp [stopWrites]

theorem bitsWrites_lines (k : Chip) (bits : List Bool) : ∀ w ∈ bitsWrites k bits, w.1 = .ddData ∨ w.1 = .ddClk k := by
  intro w hw
  obtain ⟨bit, -, hbit⟩ := List.mem_flatMap.1 hw
  have hlines : ∀ w ∈ bitWrites k bit, w.1 = .ddData ∨ w.1 = .ddClk k := by simp [bitWrites, pulse, ddData]
  exact hlines w hbit

theorem frameWrites_lines (b : Config.Board) (fb : Memory) (k : Chip) :
    ∀ w ∈ frameWrites b fb k, w.1 = .ddData ∨ w.1 = .ddClk k := by
  simp only [frameWrites, sendFrame, byteWrites, List.forall_mem_append]
  have hstart := startWrites_lines k
  have hbits := bitsWrites_lines k
  have hstop := stopWrites_lines k
  exact ⟨⟨⟨⟨⟨⟨hstart, hbits _⟩, hstop⟩, hstart⟩, hbits _⟩, hbits _⟩, hstop⟩

/-- Settles O24: the frame's last bracket stores the 16 wire bytes; no other chip sees an edge of its own clock. -/
theorem frameFillsTheChipsMemory : Obligations.FrameFillsTheChipsMemory := by
  unfold Obligations.FrameFillsTheChipsMemory
  intro s t c k hmain hc hwf ht
  rw [exec_ddFrame_eq hmain hc] at ht
  cases ht
  refine ⟨fun p i hp hi => ?_, fun j hj hdriven => ?_⟩
  · rw [drive_displays, frameWrites, sendFrame_eq (length_frameRow _ _ _ _) (length_frameRow _ _ _ _),
      displayRun_stop_dataWrites_mem]
    obtain ⟨hA, hB⟩ := memRead_frameStores (displayRun_memWf _ _ _ _ _ hwf) hp
    rw [hA, hB, getLsbD_plane_frameRow _ _ _ _ hi, getLsbD_plane_frameRow _ _ _ _ hi, Nat.zero_add]
    exact ⟨rfl, rfl⟩
  · rw [drive_displays]
    refine displayRun_mem_of_driven_clock _ _ (fun w hw hclk => ?_) hdriven
    rcases frameWrites_lines _ _ _ w hw with h | h
    · rw [h] at hclk
      cases hclk
    · rw [h] at hclk
      exact hj (Line.ddClk.inj hclk).symm

end Sys2Proof.Machine
end

section
/-! PROOF. The encoding is a bijection onto the words that are not reserved (rules R90 to R98). A word with an operation's opcode is
read by that operation's format: the operation with its fields taken from the word. The round trips and the three reasons to reject a
word are read off that one equation. -/

namespace Sys2Proof

/-! ### Formats -/

/-- The operation of the same row with every field taken from a word (rule R91). -/
def withFields (i : Instr) (w : CmdWord) : Instr :=
  match i with
  | .pinSet _ => .pinSet (w.extractLsb' 0 8)
  | .pinClr _ => .pinClr (w.extractLsb' 0 8)
  | .pinRead _ => .pinRead (w.extractLsb' 0 8)
  | .pinTri _ => .pinTri (w.extractLsb' 0 8)
  | .ddStart _ => .ddStart (w.extractLsb' 0 4)
  | .ddStop _ => .ddStop (w.extractLsb' 0 4)
  | .ddBit _ _ => .ddBit (w.extractLsb' 0 4) (w.getLsbD 8)
  | .ddByte _ _ => .ddByte (w.extractLsb' 0 4) (w.extractLsb' 8 8)
  | .ddFrame _ => .ddFrame (w.extractLsb' 0 4)
  | .rtcTx _ => .rtcTx (w.extractLsb' 8 8)
  | .rtcRx _ => .rtcRx (w.getLsbD 0)
  | .rtcBegin _ _ => .rtcBegin (if w.getLsbD 0 then .read else .write) (w.extractLsb' 8 8)
  | .fbBigchar _ _ => .fbBigchar (w.extractLsb' 0 4) (w.extractLsb' 8 5)
  | .evtPost _ => .evtPost (w.extractLsb' 0 3)
  | .ddPresent | .ddAllon | .rtcStart | .rtcStop | .rtcGettime | .rtcSettime | .rtcInit | .fbClear | .fbRender | .seqBoot
  | .seqIter | .seqWait | .seqDispatch | .seqSelftest | .evtTake => i

/-- The bits of the operand area that the operation's format does not name (rule R91). -/
def unnamedBits (i : Instr) : CmdWord := rowMask i &&& 0x00FFFFFF

theorem decode_of_opcode {w : CmdWord} {i : Instr} (h : opcodeField w = opcodeOf i) :
    decode w = checked (unnamedBits i) w (withFields i w) := by
  unfold decode
  cases i <;> simp only [opcodeOf, unnamedBits, rowMask] at h ⊢ <;> rw [h] <;> rfl

theorem opcodeOf_withFields (i : Instr) (w : CmdWord) : opcodeOf (withFields i w) = opcodeOf i := by
  cases i <;> rfl

theorem rowMask_withFields (i : Instr) (w : CmdWord) : rowMask (withFields i w) = rowMask i := by
  cases i <;> rfl

/-! ### The word of an operation -/

theorem opcodeField_encode (i : Instr) : opcodeField (encode i) = opcodeOf i := BitVec.extractLsb'_append_eq_left

theorem encode_and_rowMask (i : Instr) : encode i &&& rowMask i = rowMatch i := by
  cases i with
  | pinSet line => exact Laws.RowMatch.pinSet line
  | pinClr line => exact Laws.RowMatch.pinClr line
  | pinRead line => exact Laws.RowMatch.pinRead line
  | pinTri line => exact Laws.RowMatch.pinTri line
  | ddStart chip => exact Laws.RowMatch.ddStart chip
  | ddStop chip => exact Laws.RowMatch.ddStop chip
  | ddBit chip bit => exact Laws.RowMatch.ddBit chip bit
  | ddByte chip byte => exact Laws.RowMatch.ddByte chip byte
  | ddFrame chip => exact Laws.RowMatch.ddFrame chip
  | ddPresent => exact Laws.RowMatch.ddPresent
  | ddAllon => exact Laws.RowMatch.ddAllon
  | rtcStart => exact Laws.RowMatch.rtcStart
  | rtcStop => exact Laws.RowMatch.rtcStop
  | rtcTx byte => exact Laws.RowMatch.rtcTx byte
  | rtcRx ack => exact Laws.RowMatch.rtcRx ack
  | rtcBegin dir reg => exact Laws.RowMatch.rtcBegin dir reg
  | rtcGettime => exact Laws.RowMatch.rtcGettime
  | rtcSettime => exact Laws.RowMatch.rtcSettime
  | rtcInit => exact Laws.RowMatch.rtcInit
  | fbClear => exact Laws.RowMatch.fbClear
  | fbBigchar glyph col => exact Laws.RowMatch.fbBigchar glyph col
  | fbRender => exact Laws.RowMatch.fbRender
  | seqBoot => exact Laws.RowMatch.seqBoot
  | seqIter => exact Laws.RowMatch.seqIter
  | seqWait => exact Laws.RowMatch.seqWait
  | seqDispatch => exact Laws.RowMatch.seqDispatch
  | seqSelftest => exact Laws.RowMatch.seqSelftest
  | evtPost event => exact Laws.RowMatch.evtPost event
  | evtTake => exact Laws.RowMatch.evtTake

/-- A row's match value has its opcode and nothing else (rule R94). -/
theorem rowMatch_and_operandArea (i : Instr) : rowMatch i &&& 0x00FFFFFF = 0 := by
  have hsplit : (0x00FFFFFF : CmdWord) = 0#8 ++ BitVec.allOnes 24 := by decide
  rw [rowMatch, hsplit, BitVec.and_append]
  simp

theorem encode_and_unnamedBits (i : Instr) : encode i &&& unnamedBits i = 0 := by
  rw [unnamedBits, ← BitVec.and_assoc, encode_and_rowMask, rowMatch_and_operandArea]

/-! A field under an opcode, with zeros or other fields on either side, is read back from its place. -/

section Fields
variable {k m n p q : Nat} (op : BitVec k) (hi : BitVec m) (x : BitVec n) (z : BitVec p) (y : BitVec q)

theorem extractLsb'_lowField : (op ++ (hi ++ x)).extractLsb' 0 n = x := by
  simp [BitVec.extractLsb'_append_eq_of_add_le]

theorem extractLsb'_field : (op ++ (hi ++ x ++ z)).extractLsb' p n = x := by
  rw [BitVec.extractLsb'_append_eq_of_add_le (by omega), BitVec.extractLsb'_append_eq_of_le le_rfl, Nat.sub_self,
    BitVec.extractLsb'_append_eq_right]

theorem extractLsb'_fieldAboveLow : (op ++ (hi ++ x ++ z ++ y)).extractLsb' (p + q) n = x := by
  rw [BitVec.extractLsb'_append_eq_of_add_le (by omega), BitVec.extractLsb'_append_eq_of_le (by omega), Nat.add_sub_cancel,
    BitVec.extractLsb'_append_eq_of_le le_rfl, Nat.sub_self, BitVec.extractLsb'_append_eq_right]

end Fields

theorem ofBool_getLsbD (w : CmdWord) (k : Nat) : BitVec.ofBool (w.getLsbD k) = w.extractLsb' k 1 := by
  ext j hj
  obtain rfl : j = 0 := by omega
  simp

theorem getLsbD_of_extractLsb' {w : CmdWord} {k : Nat} {b : Bool} (h : w.extractLsb' k 1 = BitVec.ofBool b) : w.getLsbD k = b :=
  BitVec.ofBool_eq_iff_eq.1 ((ofBool_getLsbD w k).trans h)

/-- Each field stands where its format reads it (rule R91). -/
theorem withFields_encode (i : Instr) : withFields i (encode i) = i := by
  cases i with
  | pinSet _ | pinClr _ | pinRead _ | pinTri _ | ddStart _ | ddStop _ | ddFrame _ | evtPost _ =>
    exact congrArg _ (extractLsb'_lowField _ _ _)
  | ddBit c b =>
    exact congrArg₂ _ (extractLsb'_lowField _ _ _) (getLsbD_of_extractLsb' (extractLsb'_fieldAboveLow _ _ _ _ _))
  | ddByte _ _ | fbBigchar _ _ =>
    exact congrArg₂ _ (extractLsb'_lowField _ _ _) (extractLsb'_fieldAboveLow _ _ _ _ _)
  | rtcTx _ => exact congrArg _ (extractLsb'_field _ _ _ _)
  | rtcRx _ => exact congrArg _ (getLsbD_of_extractLsb' (extractLsb'_lowField _ _ _))
  | rtcBegin dir reg =>
    have hbit : (encode (.rtcBegin dir reg)).getLsbD 0 = decide (dir = .read) :=
      getLsbD_of_extractLsb' (extractLsb'_lowField _ _ _)
    have hdir : (if (encode (.rtcBegin dir reg)).getLsbD 0 then Dir.read else .write) = dir := by
      rw [hbit]
      cases dir <;> rfl
    exact congrArg₂ _ hdir (extractLsb'_fieldAboveLow _ _ _ _ _)
  | ddPresent | ddAllon | rtcStart | rtcStop | rtcGettime | rtcSettime | rtcInit | fbClear | fbRender | seqBoot
  | seqIter | seqWait | seqDispatch | seqSelftest | evtTake => rfl

/-- The decoder on an operation's own word checks the operand ranges and nothing else (rule R98). -/
theorem decode_encode (i : Instr) : decode (encode i) = if i.wf then .ok i else .error .operandRange := by
  rw [decode_of_opcode (opcodeField_encode i), checked, encode_and_unnamedBits, withFields_encode, if_neg (by simp)]

theorem decode_encode_of_wf {i : Instr} (h : WellFormed i) : decode (encode i) = .ok i := by
  rw [decode_encode, if_pos h]

/-- Settles O1: the opcode selects the format, no unnamed bit is set, and each field is read back from its place. -/
theorem encodeThenDecodeIsIdentity : Obligations.EncodeThenDecodeIsIdentity := by
  unfold Obligations.EncodeThenDecodeIsIdentity
  exact fun i => decode_encode_of_wf

/-! ### The operation of a word -/

/-- One operation of each row of the opcode table, rule R94. -/
def rows : List Instr :=
  [.pinSet 0, .pinClr 0, .pinRead 0, .pinTri 0, .ddStart 0, .ddStop 0, .ddBit 0 false, .ddByte 0 0, .ddFrame 0, .ddPresent,
    .ddAllon, .rtcStart, .rtcStop, .rtcTx 0, .rtcRx false, .rtcBegin .write 0, .rtcGettime, .rtcSettime, .rtcInit, .fbClear,
    .fbBigchar 0 0, .fbRender, .seqBoot, .seqIter, .seqWait, .seqDispatch, .seqSelftest, .evtPost 0, .evtTake]

/-- A word whose opcode is in no row is rejected for it (rule R98 (a)). -/
theorem decode_of_unknownOpcode {w : CmdWord} (h : ∀ i ∈ rows, opcodeField w ≠ opcodeOf i) :
    decode w = .error .unknownOpcode := by
  have hnat : ∀ i ∈ rows, (opcodeField w).toNat ≠ (opcodeOf i).toNat := fun i hi hw => h i hi (BitVec.eq_of_toNat_eq hw)
  simp only [rows, List.forall_mem_cons, opcodeOf] at hnat
  unfold decode
  -- each row's arm is for an opcode that `hnat` excludes; the last arm is the rejection
  split <;> simp_all

/-- A run of bits that a mask covers is 0 where the masked word is. -/
theorem extractLsb'_eq_zero_of_and {w m : CmdWord} (h : w &&& m = 0) {start len : Nat}
    (hm : m.extractLsb' start len = BitVec.allOnes len) : w.extractLsb' start len = 0#len := by
  have hand : (w &&& m).extractLsb' start len = w.extractLsb' start len := by
    rw [BitVec.extractLsb'_and, hm, BitVec.and_allOnes]
  rw [← hand, h]
  exact BitVec.extractLsb'_zero

/-! Fields of a word, and zeros where the word is 0, put side by side are a run of the word's bits. -/

section Join
variable {w : CmdWord} {m n p q : Nat}

theorem zero_append_low (hi : w.extractLsb' n m = 0#m) : 0#m ++ w.extractLsb' 0 n = w.extractLsb' 0 (m + n) := by
  rw [← hi, BitVec.extractLsb'_append_extractLsb'_eq_extractLsb' (Nat.zero_add n).symm]

theorem zero_append_field_append_zero (hi : w.extractLsb' (p + n) m = 0#m) (lo : w.extractLsb' 0 p = 0#p) :
    0#m ++ w.extractLsb' p n ++ 0#p = w.extractLsb' 0 (m + n + p) := by
  rw [← hi, ← lo, BitVec.extractLsb'_append_extractLsb'_eq_extractLsb' rfl,
    BitVec.extractLsb'_append_extractLsb'_eq_extractLsb' (Nat.zero_add p).symm]

theorem zero_append_field_append_zero_append_low (hi : w.extractLsb' (q + p + n) m = 0#m) (lo : w.extractLsb' q p = 0#p) :
    0#m ++ w.extractLsb' (q + p) n ++ 0#p ++ w.extractLsb' 0 q = w.extractLsb' 0 (m + n + p + q) := by
  rw [← hi, ← lo, BitVec.extractLsb'_append_extractLsb'_eq_extractLsb' rfl,
    BitVec.extractLsb'_append_extractLsb'_eq_extractLsb' rfl,
    BitVec.extractLsb'_append_extractLsb'_eq_extractLsb' (Nat.zero_add q).symm]

end Join

/-- The named fields with zeros between them are the whole operand area, if no unnamed bit is set. -/
theorem operandArea_withFields {w : CmdWord} {i : Instr} (h : w &&& unnamedBits i = 0) :
    operandArea (withFields i w) = w.extractLsb' 0 24 := by
  cases i <;> simp only [unnamedBits, rowMask] at h
  case pinSet | pinClr | pinRead | pinTri | ddStart | ddStop | ddFrame | evtPost =>
    exact zero_append_low (extractLsb'_eq_zero_of_and h (by decide))
  case rtcTx =>
    exact zero_append_field_append_zero (extractLsb'_eq_zero_of_and h (by decide)) (extractLsb'_eq_zero_of_and h (by decide))
  case ddByte | fbBigchar =>
    exact zero_append_field_append_zero_append_low (extractLsb'_eq_zero_of_and h (by decide))
      (extractLsb'_eq_zero_of_and h (by decide))
  case rtcRx =>
    simp only [withFields, operandArea, ofBool_getLsbD]
    exact zero_append_low (extractLsb'_eq_zero_of_and h (by decide))
  case ddBit =>
    simp only [withFields, operandArea, ofBool_getLsbD]
    exact zero_append_field_append_zero_append_low (extractLsb'_eq_zero_of_and h (by decide))
      (extractLsb'_eq_zero_of_and h (by decide))
  case rtcBegin =>
    have hdir : decide ((if w.getLsbD 0 then Dir.read else .write) = .read) = w.getLsbD 0 := by cases w.getLsbD 0 <;> rfl
    simp only [withFields, operandArea, hdir, ofBool_getLsbD]
    exact zero_append_field_append_zero_append_low (extractLsb'_eq_zero_of_and h (by decide))
      (extractLsb'_eq_zero_of_and h (by decide))
  all_goals exact (extractLsb'_eq_zero_of_and h (by decide)).symm

theorem encode_withFields {w : CmdWord} {i : Instr} (hop : opcodeField w = opcodeOf i) (h : w &&& unnamedBits i = 0) :
    encode (withFields i w) = w := by
  rw [encode, opcodeOf_withFields, operandArea_withFields h, ← hop]
  exact BitVec.extractLsb'_append_extractLsb'

theorem checked_ok {u w : CmdWord} {i j : Instr} (h : checked u w i = .ok j) : w &&& u = 0 ∧ i = j ∧ WellFormed i := by
  unfold checked at h
  split at h
  · cases h
  · split at h
    · cases h
      exact ⟨not_not.1 ‹_›, rfl, ‹_›⟩
    · cases h

/-- Settles O2: a word that decodes has a row's opcode and no unnamed bit, so it is the opcode and the fields the row's format reads. -/
theorem decodeThenEncodeIsIdentity : Obligations.DecodeThenEncodeIsIdentity := by
  unfold Obligations.DecodeThenEncodeIsIdentity
  intro w i hdecode
  by_cases hknown : ∃ j, opcodeField w = opcodeOf j
  · obtain ⟨j, hop⟩ := hknown
    rw [decode_of_opcode hop] at hdecode
    obtain ⟨hbits, rfl, hwf⟩ := checked_ok hdecode
    exact ⟨encode_withFields hop hbits, hwf⟩
  · rw [decode_of_unknownOpcode fun j _ => not_exists.1 hknown j] at hdecode
    cases hdecode

/-! ### Reserved words -/

/-- A word with no unnamed bit matches its row (rule R94), because it is the word of an operation of that row. -/
theorem and_rowMask_of_unnamedBits {w : CmdWord} {i : Instr} (hop : opcodeField w = opcodeOf i) (h : w &&& unnamedBits i = 0) :
    w &&& rowMask i = rowMatch i := by
  have hrow := encode_and_rowMask (withFields i w)
  rwa [encode_withFields hop h, rowMask_withFields, rowMatch, opcodeOf_withFields] at hrow

theorem decode_of_not_rowMatch {w : CmdWord} {i : Instr} (hop : opcodeField w = opcodeOf i) (h : w &&& rowMask i ≠ rowMatch i) :
    decode w = .error .reservedBits := by
  have hbits : w &&& unnamedBits i ≠ 0 := fun hzero => h (and_rowMask_of_unnamedBits hop hzero)
  rw [decode_of_opcode hop, checked, if_pos hbits]

theorem step_of_reserved {s : Machine.State} {w : CmdWord} {rest : List CmdWord} {why : DecodeError} (hport : s.port = w :: rest)
    (h : decode w = .error why) : Machine.step s = .refused (.reservedWord why) := by
  rw [Machine.step_of_port hport, Machine.runWord, h]

/-- Settles O3: the decoder's three checks, one reason each, and the step that passes the reason on. -/
theorem reservedWordsAreRefused : Obligations.ReservedWordsAreRefused := by
  unfold Obligations.ReservedWordsAreRefused
  refine ⟨fun w h => decode_of_unknownOpcode fun i _ => h i, fun w i => decode_of_not_rowMatch, fun i hill => ?_,
    fun s w rest why => step_of_reserved⟩
  rw [decode_encode, if_neg hill]

/-- Settles O4: each printed word is the word of a well-formed operation. -/
theorem exampleWordsDecode : Obligations.ExampleWordsDecode := by
  unfold Obligations.ExampleWordsDecode
  exact ⟨decode_encode_of_wf (i := .pinTri 0x21) rfl, decode_encode_of_wf (i := .ddBit 3 true) rfl,
    decode_encode_of_wf (i := .ddByte 8 0xC0) rfl, decode_encode_of_wf (i := .ddFrame 4) rfl,
    decode_encode_of_wf (i := .rtcTx 0x52) rfl, decode_encode_of_wf (i := .rtcRx true) rfl,
    decode_encode_of_wf (i := .rtcBegin .read 0x01) rfl, decode_encode_of_wf (i := .fbBigchar 7 14) rfl,
    decode_encode_of_wf (i := .evtPost 4) rfl, decode_encode_of_wf (i := .seqWait) rfl⟩

end Sys2Proof
end

section
/-! PROOF. What a step does with a presented word (rules R90, R98), and what is refused: the wrong context (R102) and operand values
outside their ranges (R69, R92, R95). -/

namespace Sys2Proof.Machine

/-! ### The step -/

/-- Settles O5: the environment's chance to act leaves the port as it is, and the word is taken off it. -/
theorem stepRunsThePresentedOperation : Obligations.StepRunsThePresentedOperation := by
  unfold Obligations.StepRunsThePresentedOperation
  intro s w rest i hport hdecode
  have htail : s.arrive.takeWord = { s.arrive with port := rest } := by
    rw [State.takeWord, State.arrive_port, hport, List.tail_cons]
  rw [step_of_port hport, runWord, hdecode, htail]

/-! ### Contexts -/

theorem inMain_of_handler {s : State} (h : s.inHandler = true) (a : Answer) : inMain s a = .refused .wrongContext := by
  rw [inMain, if_pos h]

theorem inHandlerOnly_of_main {s : State} (h : s.inHandler = false) (a : Answer) : inHandlerOnly s a = .refused .wrongContext := by
  simp [inHandlerOnly, h]

theorem inHandlerOnly_of_handler {s : State} (h : s.inHandler = true) (a : Answer) : inHandlerOnly s a = a := by
  rw [inHandlerOnly, if_pos h]

/-- Settles O9: every arm but EVT.POST's asks for the main context first. -/
theorem wrongContextIsRefused : Obligations.WrongContextIsRefused := by
  unfold Obligations.WrongContextIsRefused
  refine ⟨fun i s hhandler hpost => ?_, fun e s hmain => inHandlerOnly_of_main hmain _⟩
  cases i with
  | evtPost e => exact absurd rfl (hpost e)
  | _ => exact inMain_of_handler hhandler _

/-! ### Operand ranges -/

theorem withLine_of_none {id : BitVec 8} (h : lineOfId id = none) (f : Line → Answer) : withLine id f = .refused .unknownLine := by
  rw [withLine, h]

theorem withChip_of_gt {c : BitVec 4} (h : 8 < c.toNat) (f : Chip → Answer) : withChip c f = .refused .chipOutOfRange := by
  have hnone : chipOf c = none := dif_neg (by omega)
  rw [withChip, hnone]

theorem eventOf_of_gt {e : BitVec 3} (h : 4 < e.toNat) : eventOf e = none := by
  revert e
  decide

theorem withEvent_of_gt {e : BitVec 3} (h : 4 < e.toNat) (f : Event → Answer) : withEvent e f = .refused .eventOutOfRange := by
  rw [withEvent, eventOf_of_gt h]

/-- Settles O11: each operation that takes a field checks it once its context is right. -/
theorem illegalOperandsAreRefused : Obligations.IllegalOperandsAreRefused := by
  unfold Obligations.IllegalOperandsAreRefused
  refine ⟨fun s id hmain hid => ?_, fun s c b v hmain hc => ?_, fun s g c hmain hg => ?_, fun s g c hmain hg hc => ?_,
    fun s e hhandler he => ?_⟩
  · have hrefused (f : Line → Answer) : inMain s (withLine id f) = .refused .unknownLine :=
      (inMain_of_main hmain _).trans (withLine_of_none hid f)
    exact ⟨hrefused _, hrefused _, hrefused _, hrefused _⟩
  · have hrefused (f : Chip → Answer) : inMain s (withChip c f) = .refused .chipOutOfRange :=
      (inMain_of_main hmain _).trans (withChip_of_gt hc f)
    exact ⟨hrefused _, hrefused _, hrefused _, hrefused _, hrefused _⟩
  · have hglyph : glyphOk g = false := decide_eq_false (by omega)
    simp [exec, execFbBigchar, inMain_of_main hmain, hglyph]
  · have hglyph : glyphOk g = true := decide_eq_true hg
    have hcol : colOk c = false := decide_eq_false (by omega)
    simp [exec, execFbBigchar, inMain_of_main hmain, hglyph, hcol]
  · exact (inHandlerOnly_of_handler hhandler _).trans (withEvent_of_gt he _)

/-! ### Line ids -/

theorem lineOfId_lineId (l : Line) : lineOfId (lineId l) = some l := by
  cases l with
  | ddData | rtcScl | rtcSda => rfl
  | btn b => cases b <;> rfl
  | ddClk k => fin_cases k <;> rfl

theorem lineId_of_lineOfId {id : BitVec 8} {l : Line} (h : lineOfId id = some l) : lineId l = id := by
  apply BitVec.eq_of_toNat_eq
  unfold lineOfId at h
  split at h
  case h_7 =>
    split at h
    · rename_i hrange
      cases h
      simp only [lineId, BitVec.toNat_ofNat]
      omega
    · cases h
  all_goals
    cases h
    exact ‹id.toNat = _›.symm

/-- Settles O12: the table of ids is read off line by line, and both round trips hold. -/
theorem lineIdsAreTheTable : Obligations.LineIdsAreTheTable := by
  unfold Obligations.LineIdsAreTheTable
  refine ⟨lineOfId_lineId, fun id l => lineId_of_lineOfId, rfl, fun k => ?_, rfl, rfl, rfl, rfl, rfl⟩
  fin_cases k <;> rfl

end Sys2Proof.Machine
end

section
/-! PROOF. The composites are their expansions (rule R101). Most are sequences of line writes: the writes of a list of operations are
the operations' writes one after the other. RTC.GETTIME, FB.RENDER and SEQ.DISPATCH go through the states between. -/

namespace Sys2Proof.Machine

/-! ### Lists of operations -/

theorem execAll_singleton (i : Instr) (s : State) : execAll [i] s = exec i s := by
  rw [execAll]
  cases exec i s <;> rfl

theorem execAll_append (is js : List Instr) (s : State) : execAll (is ++ js) s = thenDo (execAll is s) (execAll js) := by
  induction is generalizing s with
  | nil => rfl
  | cons i is ih =>
    rw [List.cons_append, execAll, execAll]
    cases exec i s with
    | next t => exact ih t
    | fault _ | refused _ => rfl

theorem execAll_cons_of_next {i : Instr} {s t : State} (h : exec i s = .next t) (is : List Instr) :
    execAll (i :: is) s = execAll is t := by
  rw [execAll, h, thenDo]

/-- In main context, with these parameters and this frame buffer, the operations make exactly these line writes. -/
def Writes (b : Config.Board) (fb : Memory) (is : List Instr) (ws : List (Line × Drive)) : Prop :=
  ∀ s : State, s.inHandler = false → s.board = b → s.fb = fb → execAll is s = .next (s.drive ws)

section Writes
variable {b : Config.Board} {fb : Memory}

theorem Writes.nil : Writes b fb [] [] := by
  intro s _ _ _
  rw [execAll, State.drive_nil]

theorem Writes.append {is js : List Instr} {u v : List (Line × Drive)} (hu : Writes b fb is u) (hv : Writes b fb js v) :
    Writes b fb (is ++ js) (u ++ v) := by
  intro s hmain hb hfb
  rw [execAll_append, hu s hmain hb hfb, thenDo, hv (s.drive u) hmain hb hfb, State.drive_append]

theorem Writes.flatMap {α : Type} {f : α → List Instr} {g : α → List (Line × Drive)} (h : ∀ x, Writes b fb (f x) (g x))
    (xs : List α) : Writes b fb (xs.flatMap f) (xs.flatMap g) := by
  induction xs with
  | nil => exact .nil
  | cons x xs ih => exact (h x).append ih

theorem Writes.map {α : Type} {f : α → Instr} {g : α → List (Line × Drive)} (h : ∀ x, Writes b fb [f x] (g x)) (xs : List α) :
    Writes b fb (xs.map f) (xs.flatMap g) := by
  rw [List.map_eq_flatMap]
  exact .flatMap h xs

/-- An operation that drives. -/
theorem Writes.of_exec {i : Instr} {ws : List (Line × Drive)}
    (h : ∀ s : State, s.inHandler = false → s.board = b → s.fb = fb → exec i s = .next (s.drive ws)) : Writes b fb [i] ws := by
  intro s hmain hb hfb
  rw [execAll_singleton, h s hmain hb hfb]

/-- A composite that makes the writes of its expansion is its expansion. -/
theorem Writes.exec_eq {s : State} {i : Instr} {is : List Instr} {ws : List (Line × Drive)} (hi : Writes s.board s.fb [i] ws)
    (his : Writes s.board s.fb is ws) (hmain : s.inHandler = false) : exec i s = execAll is s := by
  rw [← execAll_singleton, hi s hmain rfl rfl, his s hmain rfl rfl]

/-! ### Pins and the display driver -/

theorem writes_pinSet {id : BitVec 8} {l : Line} (h : lineOfId id = some l) (hl : ∀ x, l ≠ .btn x) :
    Writes b fb [.pinSet id] [(l, .high)] := .of_exec fun _ hmain _ _ => exec_pinSet_eq hmain h hl

theorem writes_pinClr {id : BitVec 8} {l : Line} (h : lineOfId id = some l) (hl : ∀ x, l ≠ .btn x) :
    Writes b fb [.pinClr id] [(l, .low)] := .of_exec fun _ hmain _ _ => exec_pinClr_eq hmain h hl

/-- DD.BIT's expansion: DD_DATA, then the pulse of the clock (rule R133). -/
theorem writes_pins_bit (k : Chip) (bit : Bool) :
    Writes b fb [if bit then .pinSet 0x00 else .pinClr 0x00, .pinSet (lineId (.ddClk k)), .pinClr (lineId (.ddClk k))]
      (bitWrites k bit) := by
  have hclk := lineOfId_lineId (.ddClk k)
  have hpulse : Writes b fb [.pinSet (lineId (.ddClk k)), .pinClr (lineId (.ddClk k))] (pulse (.ddClk k)) :=
    (writes_pinSet hclk nofun).append (writes_pinClr hclk nofun)
  have hdata : Writes b fb [if bit then .pinSet 0x00 else .pinClr 0x00] [ddData bit] := by
    cases bit with
    | false => exact writes_pinClr rfl nofun
    | true => exact writes_pinSet rfl nofun
  exact hdata.append hpulse

section Chip
variable {c : BitVec 4} {k : Chip} (hc : c.toNat = k.val)
include hc

theorem writes_ddStart : Writes b fb [.ddStart c] (startWrites k) :=
  .of_exec fun s hmain _ _ => by rw [exec, execDdStart, inMain_of_main hmain, withChip_of_toNat hc]

theorem writes_ddStop : Writes b fb [.ddStop c] (stopWrites k) :=
  .of_exec fun s hmain _ _ => by rw [exec, execDdStop, inMain_of_main hmain, withChip_of_toNat hc]

theorem writes_ddBit (bit : Bool) : Writes b fb [.ddBit c bit] (bitWrites k bit) :=
  .of_exec fun s hmain _ _ => by rw [exec, execDdBit, inMain_of_main hmain, withChip_of_toNat hc]

theorem writes_ddByte (v : Byte) : Writes b fb [.ddByte c v] (byteWrites k v) :=
  .of_exec fun s hmain _ _ => by rw [exec, execDdByte, inMain_of_main hmain, withChip_of_toNat hc]

theorem writes_ddFrame : Writes b fb [.ddFrame c] (frameWrites b fb k) :=
  .of_exec fun s hmain hb hfb => by rw [exec_ddFrame_eq hmain hc, hb, hfb]

/-- DD.BYTE's expansion: eight bits, bit 0 first (rule R134). -/
theorem writes_bits_byte (v : Byte) : Writes b fb ((List.range 8).map fun i => .ddBit c (v.getLsbD i)) (byteWrites k v) := by
  rw [byteWrites, bitsWrites, bitsLsbFirst, List.flatMap_map]
  exact .map (fun i => writes_ddBit hc (v.getLsbD i)) _

/-- DD.FRAME's expansion: the two brackets, the second with the 128 bits of the planes (rule R135). -/
theorem writes_frame :
    Writes b fb ([.ddStart c, .ddByte c b.cmdAutoInc, .ddStop c, .ddStart c, .ddByte c b.cmdAddr0]
        ++ (planes (frameRow b fb k 0) (frameRow b fb k 8)).map (.ddBit c) ++ [.ddStop c]) (frameWrites b fb k) := by
  have hstart := writes_ddStart (b := b) (fb := fb) hc
  have hstop := writes_ddStop (b := b) (fb := fb) hc
  have hcommands := (((hstart.append (writes_ddByte hc b.cmdAutoInc)).append hstop).append hstart).append
    (writes_ddByte hc b.cmdAddr0)
  exact (hcommands.append (.map (writes_ddBit hc) (planes (frameRow b fb k 0) (frameRow b fb k 8)))).append hstop

/-- DD.ALLON's bracket on one chip (rule R144). -/
theorem writes_displayOn :
    Writes b fb [.ddStart c, .ddByte c b.cmdDisplayOn, .ddStop c] (startWrites k ++ byteWrites k b.cmdDisplayOn ++ stopWrites k) :=
  ((writes_ddStart hc).append (writes_ddByte hc b.cmdDisplayOn)).append (writes_ddStop hc)

end Chip

theorem range_nine_eq_chips : List.range 9 = chips.map Fin.val := by decide

theorem toNat_ofNat_chip (k : Chip) : (BitVec.ofNat 4 k.val).toNat = k.val :=
  Nat.mod_eq_of_lt (by omega)

theorem writes_frames : Writes b fb ((List.range 9).map fun n => .ddFrame (BitVec.ofNat 4 n)) (presentWrites b fb) := by
  rw [range_nine_eq_chips, List.map_map]
  exact .map (fun k => writes_ddFrame (toNat_ofNat_chip k)) chips

theorem writes_displaysOn :
    Writes b fb ((List.range 9).flatMap fun n =>
      [.ddStart (BitVec.ofNat 4 n), .ddByte (BitVec.ofNat 4 n) b.cmdDisplayOn, .ddStop (BitVec.ofNat 4 n)]) (allOnWrites b) := by
  rw [range_nine_eq_chips, List.flatMap_map]
  exact .flatMap (fun k => writes_displayOn (toNat_ofNat_chip k)) chips

/-! ### The RTC engine's writes -/

theorem exec_rtcStop_eq {s : State} (hmain : s.inHandler = false) : exec .rtcStop s = .next (s.drive rtcStopWrites) :=
  inMain_of_main hmain _

theorem writes_rtcStart : Writes b fb [.rtcStart] rtcStartWrites := .of_exec fun _ hmain _ _ => inMain_of_main hmain _

theorem writes_rtcStop : Writes b fb [.rtcStop] rtcStopWrites := .of_exec fun _ hmain _ _ => exec_rtcStop_eq hmain

theorem writes_rtcTx (v : Byte) : Writes b fb [.rtcTx v] (txWrites v) := .of_exec fun _ hmain _ _ => inMain_of_main hmain _

theorem writes_rtcBegin (dir : Dir) (reg : Byte) : Writes b fb [.rtcBegin dir reg] (beginWrites b dir reg) :=
  .of_exec fun s hmain hb _ => by rw [exec, execRtcBegin, inMain_of_main hmain, hb]

/-- RTC.BEGIN's expansion for a write (rule R165). -/
theorem writes_address (reg : Byte) : Writes b fb [.rtcStart, .rtcTx b.rtcAddrW, .rtcTx reg] (beginWrites b .write reg) := by
  rw [beginWrites, List.append_nil]
  exact (writes_rtcStart.append (writes_rtcTx _)).append (writes_rtcTx _)

/-- RTC.BEGIN's expansion for a read: the same, then a start and the read address (rule R165). -/
theorem writes_address_read (reg : Byte) :
    Writes b fb [.rtcStart, .rtcTx b.rtcAddrW, .rtcTx reg, .rtcStart, .rtcTx b.rtcAddrR] (beginWrites b .read reg) :=
  ((writes_rtcStart.append (writes_rtcTx _)).append (writes_rtcTx _)).append (writes_rtcStart.append (writes_rtcTx _))

/-- RTC.SETTIME's expansion (rule R175). -/
theorem writes_time (sec min hour : Byte) :
    Writes b fb [.rtcBegin .write b.regSeconds, .rtcTx sec, .rtcTx min, .rtcTx hour, .rtcStop] (setTimeWrites b sec min hour) :=
  ((((writes_rtcBegin .write b.regSeconds).append (writes_rtcTx sec)).append (writes_rtcTx min)).append (writes_rtcTx hour)).append
    writes_rtcStop

end Writes

/-! ### RTC.GETTIME -/

theorem rx_inHandler (s : State) (ack : Bool) : (s.rx ack).inHandler = s.inHandler := by
  have hactive := (rxState_lineActivity 8 (s.drive [(.rtcSda, .z)])).1
  show (rxState 8 (s.drive [(.rtcSda, .z)])).inHandler = s.inHandler
  rw [hactive]
  rfl

theorem exec_rtcRx_eq {s : State} (hmain : s.inHandler = false) (ack : Bool) : exec (.rtcRx ack) s = .next (s.rx ack) := by
  rw [exec, execRtcRx, inMain_of_main hmain]

/-- RTC.GETTIME is its transfer in steps, and then the decode (rule R170). -/
theorem exec_rtcGettime_steps {s : State} (hmain : s.inHandler = false) :
    execAll [.rtcBegin .read s.board.regMinutes, .rtcRx true] s = .next s.rxMinutes
      ∧ exec (.rtcRx false) s.rxMinutes = .next s.rxHours ∧ exec .rtcStop s.rxHours = .next (s.rxHours.drive rtcStopWrites)
      ∧ exec .rtcGettime s
        = .next ((s.rxHours.drive rtcStopWrites).settle (decodeTime s.rxMinutes.res s.rxHours.res)) := by
  have hminutes : s.rxMinutes.inHandler = false := by rw [State.rxMinutes, rx_inHandler, State.drive_inHandler, hmain]
  have hhours : s.rxHours.inHandler = false := by rw [State.rxHours, rx_inHandler, hminutes]
  have hbegin : exec (.rtcBegin .read s.board.regMinutes) s = .next (s.drive (beginWrites s.board .read s.board.regMinutes)) :=
    inMain_of_main hmain _
  refine ⟨?_, exec_rtcRx_eq hminutes false, exec_rtcStop_eq hhours, inMain_of_main hmain _⟩
  rw [execAll_cons_of_next hbegin, execAll_singleton, exec_rtcRx_eq (s := s.drive _) hmain, State.rxMinutes]

/-! ### FB.RENDER in mode Clock -/

/-- `s` with another frame buffer: what FB.BIGCHAR and FB.RENDER make of it (rule R222). -/
def State.withFb (s : State) (fb : Memory) : State := { s with fb := fb }

/-- FB.BIGCHAR with its operands in range is `big_char` of their values (rule R201). -/
theorem exec_fbBigchar_withFb {s : State} {g : BitVec 4} {c : BitVec 5} {glyph col : Nat} (hmain : s.inHandler = false)
    (hg : g.toNat = glyph) (hglyph : glyph ≤ 9) (hc : c.toNat = col) (hcol : col ≤ 19) (fb : Memory) :
    exec (.fbBigchar g c) (s.withFb fb) = .next (s.withFb (bigChar s.board glyph col fb)) := by
  subst hg hc
  have hmain' : (s.withFb fb).inHandler = false := hmain
  rw [exec, execFbBigchar, inMain_of_main hmain']
  simp only [glyphOk, colOk, hglyph, hcol, decide_true, Bool.not_true, Bool.false_eq_true, if_false]
  rfl

theorem exec_fbRender_of_clock {s : State} (hmain : s.inHandler = false) (hmode : s.mode = .clock) (hho : s.time.ho.toNat ≤ 9)
    (hmo : s.time.mo.toNat ≤ 9) : exec .fbRender s = .next (s.withFb (renderClock s.board s.time s.fb)) := by
  have hdrawable : s.digitsDrawable = true := by simp [State.digitsDrawable, hmode, hho, hmo]
  have hfb : render s.board s.mode s.time s.scratch s.fb = renderClock s.board s.time s.fb := by rw [hmode, render]
  rw [exec, execFbRender, inMain_of_main hmain, if_pos hdrawable, State.fbRender, hfb, State.withFb]

/-- The four slots' columns written out (rules R208, R210). -/
theorem renderClock_eq (b : Config.Board) (t : TimeOfDay) (fb : Memory) :
    renderClock b t fb = bigChar b t.mo.toNat (15 + b.colonWidth.val) (bigChar b t.mt.toNat (10 + b.colonWidth.val)
      (paint b.colonCell1 b.colonPattern1 (paint b.colonCell0 b.colonPattern0
        (bigChar b t.ho.toNat 5 (if t.ht = 1 then bigChar b 1 0 fb else fb))))) := by
  simp [renderClock, slotCol]

/-- The column operand of a slot behind the colon (rule R208). -/
theorem toNat_ofNat_add_colonWidth (b : Config.Board) {n : Nat} (hn : n ≤ 15) :
    (BitVec.ofNat 5 (n + b.colonWidth.val)).toNat = n + b.colonWidth.val := Nat.mod_eq_of_lt (by omega)

/-- The clock face is four big characters with the colon between (rule R210). -/
theorem exec_fbRender_clock_steps {s : State} (hmain : s.inHandler = false) (hmode : s.mode = .clock) (hho : s.time.ho.toNat ≤ 9)
    (hmo : s.time.mo.toNat ≤ 9) :
    ∃ a b c d, (if s.time.ht = 1 then exec (.fbBigchar 1 0) s = .next a else a = s)
      ∧ exec (.fbBigchar s.time.ho 5) a = .next b
      ∧ exec (.fbBigchar (s.time.mt.setWidth 4) (BitVec.ofNat 5 (10 + s.board.colonWidth.val)))
          { b with
            fb := paint s.board.colonCell1 s.board.colonPattern1 (paint s.board.colonCell0 s.board.colonPattern0 b.fb) }
          = .next c
      ∧ exec (.fbBigchar s.time.mo (BitVec.ofNat 5 (15 + s.board.colonWidth.val))) c = .next d
      ∧ exec .fbRender s = .next d := by
  have hwidth := s.board.colonWidth.isLt
  have hmt := s.time.mt.isLt
  have htens : (s.time.mt.setWidth 4).toNat = s.time.mt.toNat := BitVec.toNat_setWidth_of_le (by decide)
  have hclock := exec_fbRender_of_clock hmain hmode hho hmo
  rw [renderClock_eq] at hclock
  -- each frame buffer gets a name, so that states are compared without unfolding what is painted
  generalize hfb : (if s.time.ht = 1 then bigChar s.board 1 0 s.fb else s.fb) = fbTens at hclock
  have hhourTens : if s.time.ht = 1 then exec (.fbBigchar 1 0) s = .next (s.withFb fbTens) else s.withFb fbTens = s := by
    rw [← hfb]
    split
    · exact exec_fbBigchar_withFb hmain rfl (by decide) rfl (by decide) s.fb
    · rfl
  have hhourOnes := exec_fbBigchar_withFb (c := 5) (col := 5) hmain rfl hho rfl (by decide) fbTens
  generalize bigChar s.board s.time.ho.toNat 5 fbTens = fbHour at hclock hhourOnes
  have hminuteTens := exec_fbBigchar_withFb hmain htens (by omega) (toNat_ofNat_add_colonWidth s.board (n := 10) (by decide)) (by omega)
    (paint s.board.colonCell1 s.board.colonPattern1 (paint s.board.colonCell0 s.board.colonPattern0 fbHour))
  have hminuteOnes := exec_fbBigchar_withFb hmain rfl hmo (toNat_ofNat_add_colonWidth s.board (n := 15) (by decide)) (by omega)
  exact ⟨s.withFb fbTens, s.withFb fbHour, _, _, hhourTens, hhourOnes, hminuteTens, hminuteOnes _, hclock⟩

/-! ### SEQ.DISPATCH -/

theorem commit_withMail (s : State) (r : Byte) (e : Event) : (s.withMail r e).commit = s.commit.withMail s.commit.res e := by
  rw [State.commit, setTime_withMail, getTime_withMail]
  rfl

theorem withMail_mode (s : State) (r : Byte) (e : Event) : (s.withMail r e).mode = s.mode := rfl

theorem onInc_withMail (s : State) (r : Byte) (e : Event) : (s.withMail r e).onInc = s.onInc.withMail r e := by
  unfold State.onInc
  rw [withMail_mode]
  cases s.mode <;> rfl

theorem onDec_withMail (s : State) (r : Byte) (e : Event) : (s.withMail r e).onDec = s.onDec.withMail r e := by
  unfold State.onDec
  rw [withMail_mode]
  cases s.mode <;> rfl

/-- Does the transition of an event do RTC.GETTIME, and so receive a byte in RES (rules R231, R233, R237). -/
def ReceivesTime (s : State) (ev : Event) : Prop := ev = .timeTick ∨ (ev = .setPressed ∧ s.mode = .setMinutesOnes)

/-- A transition depends on neither RES nor the mailbox; RES is as it was, or what RTC.GETTIME makes it (log 16). -/
theorem onEvent_withMail (s : State) (r : Byte) (e ev : Event) :
    ∃ r', (s.withMail r e).onEvent ev = (s.onEvent ev).withMail r' e ∧ (ReceivesTime s ev → r' = (s.onEvent ev).res) := by
  cases ev with
  | none => exact ⟨r, rfl, by simp [ReceivesTime]⟩
  | incPressed => exact ⟨r, onInc_withMail s r e, by simp [ReceivesTime]⟩
  | decPressed => exact ⟨r, onDec_withMail s r e, by simp [ReceivesTime]⟩
  | timeTick => exact ⟨_, getTime_withMail s r e, fun _ => rfl⟩
  | setPressed =>
    simp only [State.onEvent, State.onSet, withMail_mode]
    cases hmode : s.mode with
    | clock | setHours | setMinutesTens => exact ⟨r, rfl, by simp [ReceivesTime, hmode]⟩
    | setMinutesOnes => exact ⟨s.commit.res, by rw [commit_withMail]; rfl, fun _ => rfl⟩

/-- SEQ.DISPATCH is EVT.TAKE and the transition of the event taken, but for RES (rule R230, log 16). -/
theorem exec_seqDispatch_steps {s : State} (hmain : s.inHandler = false) :
    ∃ a t, exec .evtTake s = .next a ∧ exec .seqDispatch s = .next t ∧ a.onEvent s.evt = { t with res := (a.onEvent s.evt).res }
      ∧ (ReceivesTime s s.evt → a.onEvent s.evt = t) := by
  obtain ⟨r, heq, hres⟩ := onEvent_withMail s ((eventCode s.evt).setWidth 8) .none s.evt
  refine ⟨s.take, s.dispatch, inMain_of_main hmain _, inMain_of_main hmain _, ?_, fun h => ?_⟩
  · rw [take_eq_withMail, heq]
    rfl
  · rw [take_eq_withMail, heq, hres h]
    rfl

/-- Settles O25: a row that only drives makes the writes of its expansion; the others are followed through their states. -/
theorem compositesAreTheirExpansions : Obligations.CompositesAreTheirExpansions := by
  unfold Obligations.CompositesAreTheirExpansions
  intro s hmain
  refine ⟨fun c k hc => ⟨fun b => ?_, fun v => ?_, ?_⟩, ?_, ?_, fun reg => ?_, fun reg => ?_, ?_, ?_,
    exec_fbRender_clock_steps hmain, exec_seqDispatch_steps hmain⟩
  · exact (writes_ddBit hc b).exec_eq (writes_pins_bit k b) hmain
  · exact (writes_ddByte hc v).exec_eq (writes_bits_byte hc v) hmain
  · exact (writes_ddFrame hc).exec_eq (writes_frame hc) hmain
  · exact (inMain_of_main hmain _).trans (writes_frames s hmain rfl rfl).symm
  · exact (inMain_of_main hmain _).trans (writes_displaysOn s hmain rfl rfl).symm
  · exact (writes_rtcBegin .write reg).exec_eq (writes_address reg) hmain
  · exact (writes_rtcBegin .read reg).exec_eq (writes_address_read reg) hmain
  · exact (inMain_of_main hmain _).trans (writes_time _ _ _ s hmain rfl rfl).symm
  · exact ⟨_, _, _, exec_rtcGettime_steps hmain⟩

end Sys2Proof.Machine
end

section
/-! PROOF. The pin primitives: a button line is never driven (rule R125), a write drives its own line only (rules R120, R121, R123,
R124), and a read returns the line's level (rules R122, R14). -/

namespace Sys2Proof.Machine

/-! ### Driving a line -/

section Pins
variable {s : State} {id : BitVec 8} {l : Line}

theorem exec_pinSet_of_btn {b : Button} (hmain : s.inHandler = false) (hid : lineOfId id = some (.btn b)) :
    exec (.pinSet id) s = .refused .buttonDriven := by
  rw [exec, execPinSet, inMain_of_main hmain, withLine_of_some hid, drivable]

theorem exec_pinClr_of_btn {b : Button} (hmain : s.inHandler = false) (hid : lineOfId id = some (.btn b)) :
    exec (.pinClr id) s = .refused .buttonDriven := by
  rw [exec, execPinClr, inMain_of_main hmain, withLine_of_some hid, drivable]

theorem exec_pinTri_eq (hmain : s.inHandler = false) (hid : lineOfId id = some l) :
    exec (.pinTri id) s = .next (s.drive [(l, .z)]) := by
  rw [exec, execPinTri, inMain_of_main hmain, withLine_of_some hid]

theorem exec_pinRead_eq (hmain : s.inHandler = false) (hid : lineOfId id = some l) :
    exec (.pinRead id) s = .next (s.pinRead l) := by
  rw [exec, execPinRead, inMain_of_main hmain, withLine_of_some hid]

end Pins

/-- What one line write does, rule R124. -/
theorem drive_one (s : State) (l : Line) (v : Drive) :
    OnlyDrives s (s.drive [(l, v)]) ∧ (s.drive [(l, v)]).trace = s.trace ++ [.wrote l v]
      ∧ ∀ l', lineGet (s.drive [(l, v)]).drv l' = if l' = l then v else lineGet s.drv l' :=
  ⟨drive_onlyDrives s _, rfl, fun l' => lineGet_lineSet s.drv l l' v⟩

/-- Settles O10: each of the three ids names a button's line. -/
theorem drivingAButtonLineIsRefused : Obligations.DrivingAButtonLineIsRefused := by
  unfold Obligations.DrivingAButtonLineIsRefused
  intro s id hmain hid
  have hbtn : ∃ b, lineOfId id = some (.btn b) := by
    obtain rfl | rfl | rfl := hid
    · exact ⟨.set, rfl⟩
    · exact ⟨.inc, rfl⟩
    · exact ⟨.dec, rfl⟩
  obtain ⟨b, hb⟩ := hbtn
  exact ⟨exec_pinSet_of_btn hmain hb, exec_pinClr_of_btn hmain hb⟩

/-- Settles O14: each of the three operations is one line write. -/
theorem pinWritesDriveOneLine : Obligations.PinWritesDriveOneLine := by
  unfold Obligations.PinWritesDriveOneLine
  intro s id l hmain hid
  refine ⟨fun hl => ?_, fun hl => ?_, ?_⟩
  · exact ⟨_, exec_pinSet_eq hmain hid hl, drive_one s l .high⟩
  · exact ⟨_, exec_pinClr_eq hmain hid hl, drive_one s l .low⟩
  · exact ⟨_, exec_pinTri_eq hmain hid, drive_one s l .z⟩

/-! ### Reading a line -/

section Read
variable {s : State} {l : Line}

theorem readsAs_of_high (h : lineGet s.drv l = .high) : s.readsAs l = true := by
  simp [State.readsAs, State.level, h, levelOf]

theorem readsAs_of_low (h : lineGet s.drv l = .low) : s.readsAs l = false := by
  simp [State.readsAs, State.level, h, levelOf]

/-- A released line is low exactly if the environment or, on RTC_SDA, the answering RTC chip holds it low when it is read (rules R14,
R78). -/
theorem readsAs_of_released (h : lineGet s.drv l = .z) :
    s.readsAs l = false ↔ lineGet (s.beforeRead l).env.held l = true
      ∨ (l = .rtcSda ∧ (s.beforeRead l).rtcChip.answers = true ∧ (s.beforeRead l).rtcChip.low = true) := by
  have hlevel : s.readsAs l
      = !(lineGet (s.beforeRead l).env.held l || (l == .rtcSda && rtcPulls (s.beforeRead l).rtcChip)) := by
    rw [State.readsAs, State.level, State.beforeRead_drv, h, levelOf]
  simp only [hlevel, rtcPulls, Bool.not_eq_false', Bool.or_eq_true, Bool.and_eq_true, beq_iff_eq]

/-- PIN.READ is `read(L)` with its level in RES: nothing else of the block changes but latches (rules R122, R28). -/
theorem pinRead_eq (s : State) (l : Line) :
    s.pinRead l = { s with
      res := if s.readsAs l then 1 else 0, trace := s.trace ++ [.sampled l (s.readsAs l)],
      pend := (s.pinRead l).pend, env := (s.pinRead l).env, rtcChip := (s.pinRead l).rtcChip,
      displays := (s.pinRead l).displays } := by
  have hres : (BitVec.ofBool (s.readsAs l)).setWidth 8 = if s.readsAs l then (1 : Byte) else 0 := by
    cases s.readsAs l <;> rfl
  rw [State.pinRead, hres, afterRead_eq, State.afterRead_trace]

theorem pinRead_pendGrows (s : State) (l : Line) : PendGrows s (s.pinRead l) := (beforeRead_lineActivity s l).2

/-- Reading a driven line gives nothing outside the block a chance to act (rule R14). -/
theorem pinRead_of_driven (h : lineGet s.drv l ≠ .z) :
    (s.pinRead l).pend = s.pend ∧ (s.pinRead l).env = s.env ∧ (s.pinRead l).rtcChip = s.rtcChip
      ∧ (s.pinRead l).displays = s.displays := by
  simp [State.pinRead, State.afterRead, beforeRead_of_driven s l h]

end Read

/-- Settles O15: the read's level is decided by the line's driver state. -/
theorem pinReadReturnsTheLevel : Obligations.PinReadReturnsTheLevel := by
  unfold Obligations.PinReadReturnsTheLevel
  intro s id l hmain hid
  refine ⟨s.pinRead l, s.readsAs l, exec_pinRead_eq hmain hid, pinRead_eq s l, pinRead_pendGrows s l,
    fun hhigh => ?_, fun hlow => ?_, fun hz => ?_⟩
  · exact ⟨readsAs_of_high hhigh, pinRead_of_driven (by simp [hhigh])⟩
  · exact ⟨readsAs_of_low hlow, pinRead_of_driven (by simp [hlow])⟩
  · exact readsAs_of_released hz

end Sys2Proof.Machine
end

section
/-! PROOF. The bit-planes of a frame (rules R140 to R142): bit `16p + i` of the sequence is bit `p` of byte `i` of the two rows, so
`planes` and `unplanes` are transposes of each other. -/

namespace Sys2Proof.Machine

/-! ### Blocks of one length -/

theorem length_flatMap_of_length {α β : Type} {f : α → List β} {m : Nat} (hf : ∀ x, (f x).length = m) (xs : List α) :
    (xs.flatMap f).length = xs.length * m := by
  simp [List.length_flatMap, hf]

/-- Element `i` of block `p`, where every block has `m` elements. -/
theorem getElem?_flatMap_of_length {α β : Type} {f : α → List β} {m : Nat} (hf : ∀ x, (f x).length = m) (xs : List α) (p : Nat)
    {i : Nat} (hi : i < m) : (xs.flatMap f)[m * p + i]? = xs[p]?.bind fun x => (f x)[i]? := by
  induction xs generalizing p with
  | nil => rfl
  | cons x xs ih =>
    rw [List.flatMap_cons]
    cases p with
    | zero =>
      have hhead : m * 0 + i < (f x).length := by rw [hf]; omega
      rw [List.getElem?_append_left hhead, Nat.mul_zero, Nat.zero_add]
      rfl
    | succ p =>
      have hindex : m * (p + 1) + i = (f x).length + (m * p + i) := by rw [hf, Nat.mul_succ]; omega
      rw [hindex, List.getElem?_append_right (Nat.le_add_right _ _), Nat.add_sub_cancel_left, ih p]
      rfl

/-! ### Planes -/

theorem length_planes {rowA rowB : List Byte} (hA : rowA.length = 8) (hB : rowB.length = 8) : (planes rowA rowB).length = 128 := by
  refine (length_flatMap_of_length (m := 16) (fun p => ?_) _).trans (by simp)
  simp [hA, hB]

/-- Bit `16p + i` of the sequence is bit `p` of the `i`-th of the 16 bytes, `rowA` before `rowB` (rule R140). -/
theorem getElem?_planes {rowA rowB : List Byte} (hA : rowA.length = 8) (hB : rowB.length = 8) {p i : Nat} (hp : p < 8)
    (hi : i < 16) : (planes rowA rowB)[16 * p + i]? = (rowA ++ rowB)[i]?.map fun v => v.getLsbD p := by
  have hblock (q : Nat) : ((rowA ++ rowB).map fun v => v.getLsbD q).length = 16 := by simp [hA, hB]
  rw [planes, getElem?_flatMap_of_length hblock _ p hi, List.getElem?_range hp, Option.bind_some, List.getElem?_map]

/-- Settles O21: the 16 bytes of a plane are the first row's eight and then the second's. -/
theorem planesTakeOneBitOfEachByte : Obligations.PlanesTakeOneBitOfEachByte := by
  unfold Obligations.PlanesTakeOneBitOfEachByte
  intro rowA rowB hA hB
  refine ⟨length_planes hA hB, fun p i hp hi => ⟨?_, ?_⟩⟩
  · rw [getElem?_planes hA hB hp (by omega), List.getElem?_append_left (by omega)]
  · rw [Nat.add_assoc, getElem?_planes hA hB hp (by omega), List.getElem?_append_right (by omega), hA, Nat.add_sub_cancel_left]

/-! ### The transpose -/

theorem length_unplanes (bits : List Bool) : (unplanes bits).length = 16 := by simp [unplanes]

/-- Bit `p` of byte `i` of the inverse is bit `16p + i` of the sequence (rule R141). -/
theorem getLsbD_unplanes (bits : List Bool) {i : Nat} (hi : i < (unplanes bits).length) {p : Nat} (hp : p < 8) :
    (unplanes bits)[i].getLsbD p = bits.getD (16 * p + i) false := by
  simp only [unplanes, List.getElem_map, List.getElem_range, getLsbD_byteOfBits _ hp]
  simp [hp]

theorem map_getElem?_unplanes {bits : List Bool} (h : bits.length = 128) {p i : Nat} (hp : p < 8) (hi : i < 16) :
    (unplanes bits)[i]?.map (fun v => v.getLsbD p) = bits[16 * p + i]? := by
  have hi' : i < (unplanes bits).length := by rwa [length_unplanes]
  have hbit : 16 * p + i < bits.length := by omega
  rw [List.getElem?_eq_getElem hi', Option.map_some, getLsbD_unplanes bits hi' hp, List.getD_eq_getElem _ _ hbit,
    List.getElem?_eq_getElem hbit]

theorem unplanes_planes {rowA rowB : List Byte} (hA : rowA.length = 8) (hB : rowB.length = 8) :
    unplanes (planes rowA rowB) = rowA ++ rowB := by
  refine List.ext_getElem (by simp [length_unplanes, hA, hB]) fun i hi hi' => BitVec.eq_of_getLsbD_eq fun p hp => ?_
  have hi16 : i < 16 := by rwa [length_unplanes] at hi
  rw [getLsbD_unplanes _ hi hp, List.getD_eq_getElem?_getD, getElem?_planes hA hB hp hi16, List.getElem?_eq_getElem hi',
    Option.map_some, Option.getD_some]

theorem planes_unplanes {bits : List Bool} (h : bits.length = 128) :
    planes ((unplanes bits).take 8) ((unplanes bits).drop 8) = bits := by
  have hA : ((unplanes bits).take 8).length = 8 := by simp [length_unplanes]
  have hB : ((unplanes bits).drop 8).length = 8 := by simp [length_unplanes]
  have hlen := length_planes hA hB
  refine List.ext_getElem? fun n => ?_
  by_cases hn : n < 128
  · have hsplit : n = 16 * (n / 16) + n % 16 := (Nat.div_add_mod n 16).symm
    have hp : n / 16 < 8 := by omega
    have hi : n % 16 < 16 := Nat.mod_lt _ (by decide)
    rw [hsplit, getElem?_planes hA hB hp hi, List.take_append_drop, map_getElem?_unplanes h hp hi]
  · rw [List.getElem?_eq_none (by omega), List.getElem?_eq_none (by omega)]

/-- Settles O22: byte and bit change places, and change back. -/
theorem planesIsABijection : Obligations.PlanesIsABijection := by
  unfold Obligations.PlanesIsABijection
  refine ⟨fun rowA rowB => unplanes_planes, fun bits h => ⟨planes_unplanes h, length_unplanes bits, fun p i hp hi => ⟨?_, ?_⟩⟩⟩
  · exact map_getElem?_unplanes h hp (by omega)
  · rw [map_getElem?_unplanes h hp (by omega), Nat.add_assoc]

/-! ### Wire bytes -/

/-- Wire bytes `2p` and `2p + 1` are plane `p` of the two rows (rule R142). -/
theorem getElem?_wireBytes (rowA rowB : List Byte) {p : Nat} (hp : p < 8) :
    (wireBytes rowA rowB)[2 * p]? = some (byteOfBits (rowA.map fun v => v.getLsbD p))
      ∧ (wireBytes rowA rowB)[2 * p + 1]? = some (byteOfBits (rowB.map fun v => v.getLsbD p)) := by
  have hpair {i : Nat} (hi : i < 2) := getElem?_flatMap_of_length (fun _ => rfl)
    (f := fun q => [byteOfBits (rowA.map fun v => v.getLsbD q), byteOfBits (rowB.map fun v => v.getLsbD q)])
    (List.range 8) p hi
  rw [List.getElem?_range hp] at hpair
  exact ⟨hpair (i := 0) (by decide), hpair (i := 1) (by decide)⟩

/-- Bit `i` of a plane of a row is the plane's bit of byte `i` (rule R142). -/
theorem getLsbD_plane {row : List Byte} (p : Nat) {i : Nat} (h : row.length = 8) (hi : i < 8) :
    some ((byteOfBits (row.map fun v => v.getLsbD p)).getLsbD i) = row[i]?.map fun v => v.getLsbD p := by
  have hi' : i < row.length := by omega
  rw [getLsbD_byteOfBits _ hi, List.getD_eq_getElem _ _ (by simpa using hi'), List.getElem_map, List.getElem?_eq_getElem hi',
    Option.map_some]

/-- Settles O23: eight bits of a plane's half are one byte sent bit 0 first. -/
theorem frameBitsAreTheWireBytes : Obligations.FrameBitsAreTheWireBytes := by
  unfold Obligations.FrameBitsAreTheWireBytes
  intro k rowA rowB hA hB
  refine ⟨bitsWrites_planes k hA hB, fun p i hp hi => ?_⟩
  obtain ⟨hbyteA, hbyteB⟩ := getElem?_wireBytes rowA rowB hp
  rw [hbyteA, hbyteB]
  exact ⟨getLsbD_plane p hA hi, getLsbD_plane p hB hi⟩

end Sys2Proof.Machine
end

section
/-! PROOF. The display driver's traces (rules R130 to R135, R143, R144): each operation is one sequence of line writes, and the writes
are the events its rule lists. -/

namespace Sys2Proof.Machine

/-! ### Writes and their events -/

theorem drivenBy_wroteAll (drv : LineMap Drive) (ws : List (Line × Drive)) : drivenBy drv (wroteAll ws) = driveAll drv ws :=
  List.foldl_map

/-- An operation that drives performs the events of its writes (rule R14). -/
theorem performs_of_drive {i : Instr} {s : State} {ws : List (Line × Drive)} {es : List LineEvent}
    (h : exec i s = .next (s.drive ws)) (hes : wroteAll ws = es) : Performs i s es := by
  subst hes
  exact ⟨s.drive ws, h, drive_onlyDrives s ws, s.drive_trace ws, (drivenBy_wroteAll s.drv ws).symm⟩

/-- What `Writes` says of a single operation. -/
theorem Writes.exec_singleton {s : State} {i : Instr} {ws : List (Line × Drive)} (h : Writes s.board s.fb [i] ws)
    (hmain : s.inHandler = false) : exec i s = .next (s.drive ws) := by
  rw [← execAll_singleton, h s hmain rfl rfl]

theorem wroteAll_flatMap {α : Type} (f : α → List (Line × Drive)) (xs : List α) :
    wroteAll (xs.flatMap f) = xs.flatMap fun x => wroteAll (f x) := List.map_flatMap

theorem wroteAll_startWrites (k : Chip) : wroteAll (startWrites k) = startEvents k := rfl

theorem wroteAll_stopWrites (k : Chip) : wroteAll (stopWrites k) = stopEvents k := rfl

theorem wroteAll_bitWrites (k : Chip) (bit : Bool) : wroteAll (bitWrites k bit) = bitEvents k bit := rfl

theorem wroteAll_bitsWrites (k : Chip) (bits : List Bool) : wroteAll (bitsWrites k bits) = bits.flatMap (bitEvents k) :=
  wroteAll_flatMap (bitWrites k) bits

theorem wroteAll_byteWrites (k : Chip) (v : Byte) : wroteAll (byteWrites k v) = byteEvents k v := by
  rw [byteWrites, wroteAll_bitsWrites, bitsLsbFirst, List.flatMap_map, byteEvents]

/-- Settles O16: each of the four is its writes, whatever the lines were. -/
theorem displayPrimitivesWriteTheirTraces : Obligations.DisplayPrimitivesWriteTheirTraces := by
  unfold Obligations.DisplayPrimitivesWriteTheirTraces
  intro s c k hmain hc
  refine ⟨?_, ?_, fun bit => ?_, fun v => ?_⟩
  · exact performs_of_drive ((writes_ddStart hc).exec_singleton hmain) (wroteAll_startWrites k)
  · exact performs_of_drive ((writes_ddStop hc).exec_singleton hmain) (wroteAll_stopWrites k)
  · exact performs_of_drive ((writes_ddBit hc bit).exec_singleton hmain) (wroteAll_bitWrites k bit)
  · exact performs_of_drive ((writes_ddByte hc v).exec_singleton hmain) (wroteAll_byteWrites k v)

/-! ### A frame -/

/-- The two rows of a chip's frame are its 16 cells in the order of their slots (rule R135). -/
theorem frameRow_append (b : Config.Board) (fb : Memory) (k : Chip) :
    frameRow b fb k 0 ++ frameRow b fb k 8 = (List.range 16).map (chipCells b (memRead fb) k) := rfl

theorem wroteAll_bits_planes (b : Config.Board) (fb : Memory) (k : Chip) :
    wroteAll (bitsWrites k (planes (frameRow b fb k 0) (frameRow b fb k 8)))
      = (List.range 8).flatMap fun p => (List.range 16).flatMap fun i =>
          bitEvents k ((chipCells b (memRead fb) k i).getLsbD p) := by
  rw [wroteAll_bitsWrites, planes, frameRow_append]
  simp only [List.flatMap_assoc, List.flatMap_map, List.map_map, Function.comp_apply]

theorem wroteAll_frameWrites (b : Config.Board) (fb : Memory) (k : Chip) :
    wroteAll (frameWrites b fb k) = frameEvents b k (chipCells b (memRead fb) k) := by
  simp only [frameWrites, sendFrame, frameEvents, wroteAll_append, wroteAll_bits_planes, wroteAll_byteWrites,
    wroteAll_startWrites, wroteAll_stopWrites]

theorem length_bitEvents (k : Chip) (bit : Bool) : (bitEvents k bit).length = 3 := rfl

theorem length_byteEvents (k : Chip) (v : Byte) : (byteEvents k v).length = 24 :=
  length_flatMap_of_length (fun i => length_bitEvents k (v.getLsbD i)) (List.range 8)

/-- Two brackets with a command byte each, and the 128 bits (rule R135). -/
theorem length_frameEvents (b : Config.Board) (k : Chip) (cell : Nat → Byte) : (frameEvents b k cell).length = 442 := by
  have hplane (p : Nat) : ((List.range 16).flatMap fun i => bitEvents k ((cell i).getLsbD p)).length = 48 :=
    length_flatMap_of_length (fun i => length_bitEvents k ((cell i).getLsbD p)) (List.range 16)
  have hplanes := length_flatMap_of_length hplane (List.range 8)
  simp only [frameEvents, List.length_append, length_byteEvents, hplanes]
  rfl

/-- A frame writes the data line and its chip's clock only (rule R130). -/
theorem frameEvents_lines (b : Config.Board) (fb : Memory) (k : Chip) :
    ∀ e ∈ frameEvents b k (chipCells b (memRead fb) k), ∃ v, e = .wrote .ddData v ∨ e = .wrote (.ddClk k) v := by
  rw [← wroteAll_frameWrites]
  intro e he
  obtain ⟨⟨l, v⟩, hw, rfl⟩ := List.mem_map.1 he
  obtain rfl | rfl : l = .ddData ∨ l = .ddClk k := frameWrites_lines b fb k _ hw
  · exact ⟨v, .inl rfl⟩
  · exact ⟨v, .inr rfl⟩

/-- A frame ends with a stop, which leaves both lines high (rules R132, R135). -/
theorem drivesTo_frameWrites (b : Config.Board) (fb : Memory) (k : Chip) (drv : LineMap Drive) :
    DrivesTo k (driveAll drv (frameWrites b fb k)) (true, true) := drivesTo_stopWrites k drv _

/-- Settles O17: the frame's writes are its events, and its last stop leaves both lines high. -/
theorem frameSendsTheBitPlanes : Obligations.FrameSendsTheBitPlanes := by
  unfold Obligations.FrameSendsTheBitPlanes
  intro s c k hmain hc
  have hexec := exec_ddFrame_eq hmain hc
  refine ⟨performs_of_drive hexec (wroteAll_frameWrites s.board s.fb k), length_frameEvents _ _ _, frameEvents_lines _ _ _,
    fun t ht => ?_⟩
  rw [hexec] at ht
  cases ht
  rw [State.drive_drv]
  exact drivesTo_frameWrites s.board s.fb k s.drv

/-! ### All chips -/

theorem finRange_nine_eq_chips : List.finRange 9 = chips := by decide

theorem wroteAll_presentWrites (b : Config.Board) (fb : Memory) :
    wroteAll (presentWrites b fb) = presentEvents b (memRead fb) := by
  rw [presentWrites, wroteAll_flatMap, presentEvents, finRange_nine_eq_chips]
  simp only [wroteAll_frameWrites]

/-- Settles O18: nine frames of 442 writes. -/
theorem presentSendsNineFrames : Obligations.PresentSendsNineFrames := by
  unfold Obligations.PresentSendsNineFrames
  intro s hmain
  refine ⟨performs_of_drive (inMain_of_main hmain _) (wroteAll_presentWrites s.board s.fb), ?_⟩
  rw [presentEvents, length_flatMap_of_length fun k => length_frameEvents _ k _, List.length_finRange]

theorem wroteAll_allOnWrites (b : Config.Board) : wroteAll (allOnWrites b) = allOnEvents b := by
  rw [allOnWrites, wroteAll_flatMap, allOnEvents, finRange_nine_eq_chips]
  simp only [wroteAll_append, wroteAll_byteWrites, wroteAll_startWrites, wroteAll_stopWrites]

theorem length_displayOnEvents (k : Chip) (v : Byte) : (startEvents k ++ byteEvents k v ++ stopEvents k).length = 29 := by
  simp [startEvents, stopEvents, length_byteEvents]

/-- Settles O20: nine brackets of 29 writes. -/
theorem allOnCommandsEveryChip : Obligations.AllOnCommandsEveryChip := by
  unfold Obligations.AllOnCommandsEveryChip
  intro s hmain
  refine ⟨performs_of_drive (inMain_of_main hmain _) (wroteAll_allOnWrites s.board), ?_⟩
  rw [allOnEvents, length_flatMap_of_length fun k => length_displayOnEvents k _, List.length_finRange]

end Sys2Proof.Machine
end

section
/-! PROOF. Both buses are idle between the sequencer's operations (rules R132, R146, R160, R162, R245, R311). Every protocol ends with
a stop, which idles the lines it has used; so an operation that starts on idle lines ends on idle lines. -/

namespace Sys2Proof.Machine

/-! ### Lines in use -/

/-- Every line but those of `ls` is in its reset driver state. -/
def IdleBut (ls : List Line) (s : State) : Prop := ∀ l ∉ ls, lineGet s.drv l = idleDrive l

section
variable {s t : State} {ls : List Line} {ws : List (Line × Drive)}

theorem LinesIdle.idleBut (h : LinesIdle s) (ls : List Line) : IdleBut ls s := fun l _ => h l

theorem LinesIdle.of_drv_eq (h : LinesIdle s) (hdrv : t.drv = s.drv) : LinesIdle t := by
  intro l
  rw [hdrv]
  exact h l

theorem IdleBut.of_drv_eq (h : IdleBut ls s) (hdrv : t.drv = s.drv) : IdleBut ls t := by
  intro l hl
  rw [hdrv]
  exact h l hl

theorem IdleBut.drive (h : IdleBut ls s) (hws : ∀ w ∈ ws, w.1 ∈ ls) : IdleBut ls (s.drive ws) := by
  intro l hl
  rw [State.drive_drv, lineGet_driveAll_of_notMem ws s.drv l fun w hw he => hl (he ▸ hws w hw)]
  exact h l hl

end

/-! ### The display bus -/

/-- The data line and one chip's clock, rule R130. -/
def displayBus (k : Chip) : List Line := [.ddData, .ddClk k]

/-- A stop idles the data line and the addressed chip's clock (rule R132). -/
theorem IdleBut.displayStop {s : State} {k : Chip} (h : IdleBut (displayBus k) s) : LinesIdle (s.drive (stopWrites k)) := by
  intro l
  by_cases hl : l ∈ displayBus k
  · obtain ⟨hdata, hclk⟩ := drivesTo_stopWrites k s.drv []
    obtain rfl | rfl : l = .ddData ∨ l = .ddClk k := by simpa [displayBus] using hl
    · exact hdata
    · exact hclk
  · have hstop : ∀ w ∈ stopWrites k, w.1 ∈ displayBus k := by simp [stopWrites, displayBus]
    exact h.drive hstop l hl

/-- Writes on the display bus that end with a stop take idle lines to idle lines (rule R146). -/
theorem LinesIdle.bracket {s : State} {k : Chip} {ws : List (Line × Drive)} (h : LinesIdle s)
    (hws : ∀ w ∈ ws, w.1 = .ddData ∨ w.1 = .ddClk k) : LinesIdle (s.drive (ws ++ stopWrites k)) := by
  rw [State.drive_append]
  exact ((h.idleBut (displayBus k)).drive fun w hw => by simpa [displayBus] using hws w hw).displayStop

theorem LinesIdle.frame {s : State} (h : LinesIdle s) (b : Config.Board) (fb : Memory) (k : Chip) :
    LinesIdle (s.drive (frameWrites b fb k)) :=
  h.bracket fun w hw => frameWrites_lines b fb k w (List.mem_append_left _ hw)

theorem LinesIdle.flatMap {α : Type} {f : α → List (Line × Drive)} (hf : ∀ x (s : State), LinesIdle s → LinesIdle (s.drive (f x)))
    (xs : List α) {s : State} (h : LinesIdle s) : LinesIdle (s.drive (xs.flatMap f)) := by
  induction xs generalizing s with
  | nil => rwa [List.flatMap_nil, State.drive_nil]
  | cons x xs ih =>
    rw [List.flatMap_cons, State.drive_append]
    exact ih (hf x s h)

theorem LinesIdle.ddPresent {s : State} (h : LinesIdle s) : LinesIdle s.ddPresent :=
  .flatMap (fun k _ hs => hs.frame _ _ k) chips h

theorem LinesIdle.ddAllOn {s : State} (h : LinesIdle s) : LinesIdle s.ddAllOn := by
  refine .flatMap (fun k _ hs => hs.bracket fun w hw => ?_) chips h
  obtain hw | hw := List.mem_append.1 hw
  · exact startWrites_lines k w hw
  · exact bitsWrites_lines k _ w hw

theorem LinesIdle.lightBit {s : State} (h : LinesIdle s) (x : Nat × Nat) : LinesIdle (s.lightBit x) := by
  refine LinesIdle.ddPresent ?_
  exact h.of_drv_eq rfl

theorem LinesIdle.selfTest {s : State} (h : LinesIdle s) : LinesIdle s.selfTest := by
  have hlit (xs : List (Nat × Nat)) : LinesIdle (xs.foldl State.lightBit s) := by
    induction xs generalizing s with
    | nil => exact h
    | cons x xs ih => exact ih (h.lightBit x)
  have hclear {u : State} (hu : LinesIdle u) : LinesIdle u.fbClear.ddPresent := LinesIdle.ddPresent (s := u.fbClear) hu
  exact hclear (hlit selfTestOrder)

/-! ### The RTC bus -/

/-- The two lines of the RTC bus, rule R160. -/
def rtcBus : List Line := [.rtcScl, .rtcSda]

/-- The writes are on the RTC bus only, rule R160. -/
def OnRtcBus (ws : List (Line × Drive)) : Prop := ∀ w ∈ ws, w.1 ∈ rtcBus

theorem onRtcBus_append (u v : List (Line × Drive)) : OnRtcBus (u ++ v) ↔ OnRtcBus u ∧ OnRtcBus v := List.forall_mem_append

theorem onRtcBus_rtcStartWrites : OnRtcBus rtcStartWrites := by simp [OnRtcBus, rtcStartWrites, rtcBus]

theorem onRtcBus_rtcStopWrites : OnRtcBus rtcStopWrites := by simp [OnRtcBus, rtcStopWrites, rtcBus]

theorem onRtcBus_txWrites (v : Byte) : OnRtcBus (txWrites v) := by
  simp [OnRtcBus, txWrites, msbFirst, sda, pulse, rtcBus]

theorem onRtcBus_beginWrites (b : Config.Board) (dir : Dir) (reg : Byte) : OnRtcBus (beginWrites b dir reg) := by
  have haddress : OnRtcBus (rtcStartWrites ++ txWrites b.rtcAddrW ++ txWrites reg) := by
    simp [onRtcBus_append, onRtcBus_rtcStartWrites, onRtcBus_txWrites]
  cases dir with
  | write => exact (onRtcBus_append _ _).2 ⟨haddress, nofun⟩
  | read =>
    exact (onRtcBus_append _ _).2 ⟨haddress, (onRtcBus_append _ _).2 ⟨onRtcBus_rtcStartWrites, onRtcBus_txWrites _⟩⟩

theorem onRtcBus_ackWrites (ack : Bool) : OnRtcBus (ackWrites ack) := by
  cases ack <;> simp [OnRtcBus, ackWrites, pulse, rtcBus]

section
variable {s : State}

/-- A stop idles the two lines of the RTC bus (rule R162). -/
theorem IdleBut.rtcStop (h : IdleBut rtcBus s) : LinesIdle (s.drive rtcStopWrites) := by
  intro l
  by_cases hl : l ∈ rtcBus
  · obtain rfl | rfl : l = .rtcScl ∨ l = .rtcSda := by simpa [rtcBus] using hl
    · rfl
    · rfl
  · exact h.drive onRtcBus_rtcStopWrites l hl

theorem IdleBut.rxState (h : IdleBut rtcBus s) (n : Nat) : IdleBut rtcBus (rxState n s) := by
  induction n generalizing s with
  | zero => exact h
  | succ n ih =>
    have hrise : IdleBut rtcBus (s.drive [(.rtcScl, .high)]) := h.drive (by simp [rtcBus])
    have hsample : IdleBut rtcBus ((s.drive [(.rtcScl, .high)]).afterRead .rtcSda) := hrise.of_drv_eq (State.afterRead_drv _ _)
    exact ih (hsample.drive (by simp [rtcBus]))

theorem IdleBut.rx (h : IdleBut rtcBus s) (ack : Bool) : IdleBut rtcBus (s.rx ack) := by
  have hrelease : IdleBut rtcBus (s.drive [(.rtcSda, .z)]) := h.drive (by simp [rtcBus])
  exact IdleBut.of_drv_eq ((hrelease.rxState 8).drive (onRtcBus_ackWrites ack)) rfl

theorem LinesIdle.rtcBegin (h : LinesIdle s) (dir : Dir) (reg : Byte) : IdleBut rtcBus (s.drive (beginWrites s.board dir reg)) :=
  (h.idleBut rtcBus).drive (onRtcBus_beginWrites _ _ _)

theorem LinesIdle.getTime (h : LinesIdle s) : LinesIdle s.getTime := by
  have hhours : IdleBut rtcBus s.rxHours := ((h.rtcBegin .read s.board.regMinutes).rx true).rx false
  exact hhours.rtcStop.of_drv_eq (State.settle_drv _ _)

theorem LinesIdle.setTimeWrites (h : LinesIdle s) (sec min hour : Byte) :
    LinesIdle (s.drive (setTimeWrites s.board sec min hour)) := by
  rw [Machine.setTimeWrites, State.drive_append]
  refine IdleBut.rtcStop ((h.idleBut rtcBus).drive ?_)
  exact (onRtcBus_append _ _).2 ⟨(onRtcBus_append _ _).2 ⟨(onRtcBus_append _ _).2
    ⟨onRtcBus_beginWrites _ _ _, onRtcBus_txWrites sec⟩, onRtcBus_txWrites min⟩, onRtcBus_txWrites hour⟩

theorem LinesIdle.startClock (h : LinesIdle s) : LinesIdle s.startClock := by
  unfold State.startClock
  split
  · exact h.setTimeWrites _ _ _
  · exact h

theorem LinesIdle.rtcInit (h : LinesIdle s) : LinesIdle s.rtcInit := by
  have hseconds : LinesIdle s.readSeconds := ((h.rtcBegin .read s.board.regSeconds).rx false).rtcStop
  exact hseconds.startClock.getTime

/-! ### Dispatch -/

theorem LinesIdle.commit (h : LinesIdle s) : LinesIdle s.commit :=
  (LinesIdle.getTime (h.setTimeWrites _ _ _)).of_drv_eq rfl

theorem LinesIdle.onSet (h : LinesIdle s) : LinesIdle s.onSet := by
  unfold State.onSet
  split
  · exact h.of_drv_eq rfl
  · exact h.of_drv_eq rfl
  · exact h.of_drv_eq rfl
  · exact h.commit.of_drv_eq rfl

@[simp] theorem State.onInc_drv (s : State) : s.onInc.drv = s.drv := by
  unfold State.onInc
  split <;> rfl

@[simp] theorem State.onDec_drv (s : State) : s.onDec.drv = s.drv := by
  unfold State.onDec
  split <;> rfl

theorem LinesIdle.onEvent (h : LinesIdle s) (e : Event) : LinesIdle (s.onEvent e) := by
  cases e with
  | setPressed => exact h.onSet
  | incPressed => exact h.of_drv_eq s.onInc_drv
  | decPressed => exact h.of_drv_eq s.onDec_drv
  | timeTick => exact h.getTime
  | none => exact h

theorem LinesIdle.dispatchPhase (h : LinesIdle s) : LinesIdle s.dispatchPhase :=
  (LinesIdle.onEvent (s := s.toPhase .dispatch) h _).of_drv_eq rfl

end

/-! ### Waiting -/

@[simp] theorem holdScript_drv (sc : List (List EnvEvent)) (s : State) : (holdScript sc s).drv = s.drv := by
  induction sc generalizing s with
  | nil => rfl
  | cons es sc ih =>
    unfold holdScript
    split
    · rfl
    · exact ih s.arrive

theorem hold_drv {s t : State} (h : s.hold = some t) : t.drv = s.drv := by
  unfold State.hold at h
  simp only at h
  split at h
  · cases h
    exact holdScript_drv _ _
  · split at h
    · cases h
      exact holdScript_drv _ _
    · split at h
      · cases h
        exact holdScript_drv _ _
      · cases h

@[simp] theorem State.handler_drv (s : State) (src : Source) : (s.handler src).drv = s.drv := by
  cases src with
  | timer => rfl
  | button => exact s.afterButtons_drv

/-- SEQ.WAIT drives no line: the handlers only read (rules R241, R285). -/
theorem wait_drv {s t : State} (h : s.wait = some t) : t.drv = s.drv := by
  obtain ⟨u, hu, rfl⟩ := Option.map_eq_some_iff.1 h
  have hhandler : u.service.drv = u.drv := (u.enterHandler u.serviced).handler_drv u.serviced
  exact (hhandler.trans (hold_drv hu)).trans s.enable_drv

/-! ### The loop and the boot -/

theorem LinesIdle.renderAndPresent {s : State} (h : LinesIdle s) : LinesIdle s.renderAndPresent :=
  (LinesIdle.ddPresent (s := s.fbRender) h).of_drv_eq (State.clearRedraw_drv _)

theorem LinesIdle.iterate {s : State} (h : LinesIdle s) : Ensures LinesIdle (iterate s) := by
  unfold Machine.iterate
  split
  · exact .refused _
  · refine .waitThen fun t ht => ?_
    have hdraw : LinesIdle (if s.wantsRender then s.renderAndPresent else s) := by
      split
      · exact h.renderAndPresent
      · exact h
    have hclear (u : State) : (u.fbClear.toPhase .wait).drv = u.drv := rfl
    exact (hdraw.of_drv_eq ((wait_drv ht).trans (hclear _))).dispatchPhase

theorem LinesIdle.exec_seqIter {s : State} (h : LinesIdle s) : Ensures LinesIdle (exec .seqIter s) := by
  refine .inMain ?_
  split
  · exact h.iterate
  all_goals exact .refused _

theorem mem_allLines (l : Line) : l ∈ allLines := by
  cases l with
  | ddData | rtcScl | rtcSda => decide
  | ddClk k => revert k; decide
  | btn b => cases b <;> decide

/-- Writes of reset driver states idle the lines they name and disturb no idle line. -/
theorem lineGet_driveAll_of_idle {ws : List (Line × Drive)} (hws : ∀ w ∈ ws, w.2 = idleDrive w.1) {drv : LineMap Drive} {l : Line}
    (h : lineGet drv l = idleDrive l ∨ ∃ w ∈ ws, w.1 = l) : lineGet (driveAll drv ws) l = idleDrive l := by
  induction ws generalizing drv with
  | nil => exact h.resolve_right (by simp)
  | cons w ws ih =>
    obtain ⟨hw, hrest⟩ := List.forall_mem_cons.1 hws
    refine ih hrest ?_
    by_cases hl : l = w.1
    · left
      rw [lineGet_lineSet, if_pos hl, hw, hl]
    · rw [lineGet_lineSet, if_neg hl]
      simpa [Ne.symm hl] using h

/-- The port initialisation idles every line, whatever the lines were (rules R245, R311; log 11). -/
theorem bootPorts_linesIdle (s : State) : LinesIdle s.bootPorts := by
  intro l
  refine lineGet_driveAll_of_idle (fun w hw => ?_) ?_
  · obtain ⟨l', -, rfl⟩ := List.mem_map.1 (List.mem_of_mem_filter hw)
    rfl
  · by_cases hl : lineGet s.drv l = idleDrive l
    · exact .inl hl
    · refine .inr ⟨(l, idleDrive l), ?_, rfl⟩
      simp [portInitWrites, mem_allLines, hl]

/-- SEQ.BOOT ends on idle lines whatever they were: it idles them first, and its parts keep them idle (rule R245). -/
theorem boot_linesIdle (s : State) : LinesIdle s.boot := by
  have hchips : LinesIdle s.bootChips := (bootPorts_linesIdle s).rtcInit.ddPresent.ddAllOn
  have hread := hchips.of_drv_eq (s.bootChips.pinRead_drv (.btn s.board.selfTestBtn))
  have hdiagnostic {u : State} (hu : LinesIdle u) : LinesIdle (if u.res = 0 then u.selfTest else u) := by
    split
    · exact hu.selfTest
    · exact hu
  exact (hdiagnostic hread).of_drv_eq (State.toPhase_drv _ .render)

theorem exec_seqBoot_linesIdle (s : State) : Ensures LinesIdle (exec .seqBoot s) := by
  refine .inMain ?_
  split
  · exact .next (boot_linesIdle s)
  all_goals exact .refused _

/-- Settles O59: by itself the sequencer boots, which idles the lines, or iterates, which keeps them idle. -/
theorem busesIdleBetweenOperations : Obligations.BusesIdleBetweenOperations := by
  unfold Obligations.BusesIdleBetweenOperations
  intro s t hinv hport hstart h
  rw [step_of_empty_port hport] at h
  obtain hboot | ⟨hrender, -⟩ := hinv.phase
  · rw [sequencerGoes_of_boot (s := s.arrive) hboot] at h
    exact exec_seqBoot_linesIdle s.arrive t h
  · have hidle : LinesIdle s := hstart.resolve_left (by simp [hrender])
    rw [sequencerGoes_of_render (s := s.arrive) hrender] at h
    exact (hidle.of_drv_eq s.arrive_drv).exec_seqIter t h

end Sys2Proof.Machine
end

section
/-! PROOF. The RTC engine's writes (rules R160 to R165, R175, R176): each operation that only writes is one sequence of line writes, and
the writes are the events its rule lists; the bytes RTC.SETTIME sends are the packed digits. -/

namespace Sys2Proof.Machine

/-! ### Writes and their events -/

theorem wroteAll_rtcStartWrites : wroteAll rtcStartWrites = rtcStartEvents := rfl

theorem wroteAll_rtcStopWrites : wroteAll rtcStopWrites = rtcStopEvents := rfl

theorem wroteAll_txWrites (v : Byte) : wroteAll (txWrites v) = txEvents v := rfl

theorem wroteAll_beginWrites (b : Config.Board) (dir : Dir) (reg : Byte) :
    wroteAll (beginWrites b dir reg) = beginEvents b dir reg := by
  cases dir <;> rfl

theorem wroteAll_setTimeWrites (b : Config.Board) (sec min hour : Byte) :
    wroteAll (setTimeWrites b sec min hour) = setEvents b sec min hour := by
  simp only [setTimeWrites, setEvents, wroteAll_append, wroteAll_beginWrites, wroteAll_txWrites, wroteAll_rtcStopWrites]

theorem length_txEvents (v : Byte) : (txEvents v).length = 27 := rfl

theorem length_beginEvents (b : Config.Board) (dir : Dir) (reg : Byte) :
    (beginEvents b dir reg).length = if dir = .read then 87 else 57 := by
  cases dir <;> rfl

theorem length_setEvents (b : Config.Board) (sec min hour : Byte) : (setEvents b sec min hour).length = 141 := by
  simp [setEvents, length_beginEvents, length_txEvents, rtcStopEvents]

/-- A byte ends with its acknowledge pulse: the clock is low and the data line released (rule R163). -/
theorem driveAll_txWrites_ends (drv : LineMap Drive) (v : Byte) :
    lineGet (driveAll drv (txWrites v)) .rtcScl = .low ∧ lineGet (driveAll drv (txWrites v)) .rtcSda = .z := by
  rw [txWrites, driveAll_append]
  exact ⟨rfl, rfl⟩

/-- Settles O26: each of the four is its writes, whatever the lines were. -/
theorem rtcWritesHaveTheirTraces : Obligations.RtcWritesHaveTheirTraces := by
  unfold Obligations.RtcWritesHaveTheirTraces
  intro s hmain
  have htx (v : Byte) : exec (.rtcTx v) s = .next (s.drive (txWrites v)) := (writes_rtcTx v).exec_singleton hmain
  refine ⟨?_, ?_, fun v => ⟨?_, length_txEvents v⟩, fun dir reg => ⟨?_, length_beginEvents s.board dir reg⟩, fun t v ht => ?_⟩
  · exact performs_of_drive (writes_rtcStart.exec_singleton hmain) wroteAll_rtcStartWrites
  · exact performs_of_drive (exec_rtcStop_eq hmain) wroteAll_rtcStopWrites
  · exact performs_of_drive (htx v) (wroteAll_txWrites v)
  · exact performs_of_drive ((writes_rtcBegin dir reg).exec_singleton hmain) (wroteAll_beginWrites s.board dir reg)
  · rw [htx v] at ht
    cases ht
    exact driveAll_txWrites_ends s.drv v

/-! ### Packed digits -/

theorem toNat_encMinutes : ∀ (mt : BitVec 3) (mo : BitVec 4), (encMinutes mt mo).toNat = 16 * mt.toNat + mo.toNat := by decide

theorem toNat_encHours : ∀ h : BitVec 4, (encHours h).toNat = 64 + 16 * (h.toNat / 10) + h.toNat % 10 := by decide

theorem exec_rtcSettime_eq {s : State} (hmain : s.inHandler = false) : exec .rtcSettime s = .next s.setTime :=
  inMain_of_main hmain _

/-- Settles O30: the transfer's writes with seconds 0 and the two packed bytes. -/
theorem setTimeWritesThePackedBytes : Obligations.SetTimeWritesThePackedBytes := by
  unfold Obligations.SetTimeWritesThePackedBytes
  intro s hmain
  refine ⟨encMinutes s.scratch.mt s.scratch.mo, encHours s.scratch.h, toNat_encMinutes _ _, toNat_encHours _, ?_,
    length_setEvents _ _ _ _⟩
  exact performs_of_drive (exec_rtcSettime_eq hmain) (wroteAll_setTimeWrites s.board _ _ _)

end Sys2Proof.Machine
end

section
/-! PROOF. RTC.RX (rules R164, R14, R28): the byte in RES is made of the eight levels sampled, first the most significant, and its
events are the rule's; where the RTC chip is silent the levels are those the environment's script gives. -/

namespace Sys2Proof.Machine

/-! ### Bits of a byte, most significant first -/

/-- A bit received: it becomes the least significant one. -/
def shiftIn (v : Byte) (bit : Bool) : Byte := (v <<< 1) ||| (BitVec.ofBool bit).setWidth 8

/-- The bits of a byte, bit 7 first (rule R68). -/
def bitsMsbFirst (v : Byte) : List Bool := msbFirst.map v.getLsbD

theorem getLsbD_shiftIn (v : Byte) (bit : Bool) {i : Nat} (hi : i < 8) :
    (shiftIn v bit).getLsbD i = if i = 0 then bit else v.getLsbD (i - 1) := by
  cases i with
  | zero => simp [shiftIn]
  | succ i => simp [shiftIn, hi, -BitVec.getLsbD_eq_getElem]

/-- A byte shifted in from eight bits has those bits. -/
theorem bitsMsbFirst_foldl_shiftIn {bits : List Bool} (h : bits.length = 8) (v : Byte) :
    bitsMsbFirst (bits.foldl shiftIn v) = bits := by
  obtain ⟨b7, b6, b5, b4, b3, b2, b1, b0, rfl⟩ : ∃ b7 b6 b5 b4 b3 b2 b1 b0, bits = [b7, b6, b5, b4, b3, b2, b1, b0] := by
    match bits, h with
    | [b7, b6, b5, b4, b3, b2, b1, b0], _ => exact ⟨b7, b6, b5, b4, b3, b2, b1, b0, rfl⟩
  simp [bitsMsbFirst, msbFirst, getLsbD_shiftIn, -BitVec.getLsbD_eq_getElem]

theorem bitsMsbFirst_injective : Function.Injective bitsMsbFirst := by
  intro v w h
  refine BitVec.eq_of_getLsbD_eq fun i hi => ?_
  have hmem : i ∈ msbFirst := by
    interval_cases i <;> decide
  exact List.map_inj_left.1 h i hmem

/-- A byte shifted in from a byte's bits is that byte. -/
theorem foldl_shiftIn_bitsMsbFirst (v w : Byte) : (bitsMsbFirst v).foldl shiftIn w = v :=
  bitsMsbFirst_injective (bitsMsbFirst_foldl_shiftIn rfl w)

/-! ### What a stretch of line activity records -/

/-- From `s` to `t` exactly the events `es` are recorded, and the driver states are what their writes make them (rule R14). -/
def Records (s t : State) (es : List LineEvent) : Prop := t.trace = s.trace ++ es ∧ t.drv = drivenBy s.drv es

theorem Records.trans {s t u : State} {es fs : List LineEvent} (h : Records s t es) (h' : Records t u fs) :
    Records s u (es ++ fs) := by
  obtain ⟨htrace, hdrv⟩ := h
  obtain ⟨htrace', hdrv'⟩ := h'
  refine ⟨by rw [htrace', htrace, List.append_assoc], ?_⟩
  rw [hdrv', hdrv, drivenBy, drivenBy, drivenBy, List.foldl_append]

theorem drive_records (s : State) (ws : List (Line × Drive)) : Records s (s.drive ws) (wroteAll ws) :=
  ⟨s.drive_trace ws, (drivenBy_wroteAll s.drv ws).symm⟩

theorem afterRead_records (s : State) (l : Line) : Records s (s.afterRead l) [.sampled l (s.readsAs l)] :=
  ⟨s.afterRead_trace l, s.afterRead_drv l⟩

/-- The events of one bit received, rule R164. -/
def rxBitEvents (bit : Bool) : List LineEvent := [.wrote .rtcScl .high, .sampled .rtcSda bit, .wrote .rtcScl .low]

theorem rxBit_records (s : State) : Records s s.rxBit (rxBitEvents s.rxSample) :=
  ((drive_records s _).trans (afterRead_records _ _)).trans (drive_records _ _)

theorem rxState_records (n : Nat) (s : State) : Records s (rxState n s) ((rxSamples n s).flatMap rxBitEvents) := by
  induction n generalizing s with
  | zero => exact ⟨(List.append_nil _).symm, rfl⟩
  | succ n ih => exact (rxBit_records s).trans (ih s.rxBit)

/-! ### RTC.RX -/

theorem rxByte_eq_foldl (s : State) : s.rxByte = (rxSamples 8 (s.drive [(.rtcSda, .z)])).foldl shiftIn 0 :=
  rxValue_eq_foldl 8 0 _

theorem bitsMsbFirst_rxByte (s : State) : bitsMsbFirst s.rxByte = rxSamples 8 (s.drive [(.rtcSda, .z)]) := by
  rw [rxByte_eq_foldl, bitsMsbFirst_foldl_shiftIn (length_rxSamples 8 _)]

theorem rxEvents_eq (v : Byte) (ack : Bool) :
    rxEvents v ack = wroteAll [(.rtcSda, .z)] ++ (bitsMsbFirst v).flatMap rxBitEvents ++ wroteAll (ackWrites ack) := by
  cases ack <;> rfl

theorem length_rxEvents (v : Byte) (ack : Bool) : (rxEvents v ack).length = if ack then 28 else 27 := by
  cases ack <;> rfl

/-- RTC.RX records the rule's events for the byte it leaves in RES. -/
theorem rx_records (s : State) (ack : Bool) : Records s (s.rx ack) (rxEvents s.rxByte ack) := by
  rw [rxEvents_eq, bitsMsbFirst_rxByte]
  obtain ⟨htrace, hdrv⟩ := ((drive_records s [(.rtcSda, .z)]).trans (rxState_records 8 _)).trans
    (drive_records _ (ackWrites ack))
  exact ⟨htrace, hdrv⟩

theorem LineActivity.with_res {s t : State} (h : LineActivity s t) (r : Byte) :
    LineActivity { s with res := r } { t with res := r } := by
  obtain ⟨heq, hpend⟩ := h
  refine ⟨?_, hpend⟩
  rw [heq]

theorem rx_lineActivity (s : State) (ack : Bool) : LineActivity { s with res := s.rxByte } (s.rx ack) := by
  have hlines := ((drive_lineActivity s [(.rtcSda, .z)]).trans (rxState_lineActivity 8 _)).trans
    (drive_lineActivity _ (ackWrites ack))
  exact hlines.with_res s.rxByte

theorem lineGet_drivenBy_of_not_wrote {es : List LineEvent} {l : Line} (h : ∀ v, .wrote l v ∉ es) (drv : LineMap Drive) :
    lineGet (drivenBy drv es) l = lineGet drv l := by
  induction es generalizing drv with
  | nil => rfl
  | cons e es ih =>
    have hrest : ∀ v, LineEvent.wrote l v ∉ es := fun v hv => h v (List.mem_cons_of_mem e hv)
    cases e with
    | sampled l' b => exact ih hrest drv
    | wrote l' v' =>
      have hne : l ≠ l' := by
        rintro rfl
        exact h v' List.mem_cons_self
      calc lineGet (drivenBy drv (.wrote l' v' :: es)) l = lineGet (lineSet drv l' v') l := ih hrest _
        _ = lineGet drv l := by rw [lineGet_lineSet, if_neg hne]

/-- After a byte is received the clock is low; the data line is driven low by an ack and released by a nack (rule R164). -/
theorem lineGet_drivenBy_rxEvents (drv : LineMap Drive) (v : Byte) (ack : Bool) (l : Line) :
    lineGet (drivenBy drv (rxEvents v ack)) l
      = if l = .rtcScl then .low else if l = .rtcSda then (if ack then .low else .z) else lineGet drv l := by
  by_cases hscl : l = .rtcScl
  · subst hscl
    cases ack <;> rfl
  · by_cases hsda : l = .rtcSda
    · subst hsda
      cases ack <;> rfl
    · rw [if_neg hscl, if_neg hsda]
      refine lineGet_drivenBy_of_not_wrote (fun x => ?_) drv
      cases ack <;> simp [rxEvents, hscl, hsda]

/-- Settles O27: the samples are the bits of the byte left in RES, and between them only the two lines of the bus are written. -/
theorem rxLeavesTheSampledByte : Obligations.RxLeavesTheSampledByte := by
  unfold Obligations.RxLeavesTheSampledByte
  intro s ack hmain
  obtain ⟨htrace, hdrv⟩ := rx_records s ack
  refine ⟨s.rx ack, exec_rtcRx_eq hmain ack, rx_lineActivity s ack, htrace, length_rxEvents _ ack, fun l => ?_⟩
  rw [hdrv, lineGet_drivenBy_rxEvents]

/-! ### A silent chip -/

/-- A chip that does not answer takes no notice of its lines (log 8). -/
theorem rtcRun_of_silent {c : Config.RtcChip} (h : c.answers = false) (b : Config.Board) (held : LineMap Bool) (drv : LineMap Drive)
    (ws : List (Line × Drive)) : rtcRun b held drv c ws = c := by
  induction ws generalizing drv with
  | nil => rfl
  | cons w ws ih => simp [rtcRun, rtcMoves, rtcEdge, h, ih]

/-- The peer's act before a sample: it lets the data line go for a 1 and holds it low for a 0. -/
def sends (bit : Bool) : List EnvEvent := [if bit then .letGo .rtcSda else .holdLow .rtcSda]

/-- A chip that does not answer does not answer because a peer moves the data line. -/
theorem rtcThrough_sends_of_silent {c : Config.RtcChip} (h : c.answers = false) (b : Config.Board) (drv : LineMap Drive)
    (held : LineMap Bool) (bit : Bool) : rtcThrough b drv held c (sends bit) = c := by
  cases bit <;> simp [sends, rtcThrough, rtcAfter, rtcMoves, rtcEdge, h]

theorem lineGet_foldl_sends (held : LineMap Bool) (bit : Bool) :
    lineGet ((sends bit).foldl heldAfter held) .rtcSda = !bit := by
  cases bit <;> simp [sends, heldAfter, lineGet_lineSet]

section Sent
variable {s : State} {bit : Bool} {rest : List (List EnvEvent)}

/-- A read of the released data line while the chip is silent finds what the peer sends, and uses the peer's batch up. -/
theorem read_of_sends (hsilent : s.rtcChip.answers = false) (hz : lineGet s.drv .rtcSda = .z)
    (hscript : s.env.script = sends bit :: rest) :
    s.readsAs .rtcSda = bit ∧ (s.afterRead .rtcSda).rtcChip.answers = false ∧ (s.afterRead .rtcSda).env.script = rest := by
  have hchip : (s.beforeRead .rtcSda).rtcChip = s.rtcChip := by
    rw [beforeRead_of_released s _ hz, arrive_of_script hscript]
    exact rtcThrough_sends_of_silent hsilent _ _ _ _
  have henv := beforeRead_env_of_script hz hscript
  refine ⟨?_, ?_, ?_⟩
  · have hread := readsAs_of_released hz
    rw [hchip, hsilent, henv, lineGet_foldl_sends] at hread
    simpa using hread
  · show (s.beforeRead .rtcSda).rtcChip.answers = false
    rw [hchip, hsilent]
  · rw [afterRead_env_of_script hz hscript]

theorem rxBit_of_sends (hsilent : s.rtcChip.answers = false) (hz : lineGet s.drv .rtcSda = .z)
    (hscript : s.env.script = sends bit :: rest) :
    s.rxSample = bit ∧ s.rxBit.rtcChip.answers = false ∧ lineGet s.rxBit.drv .rtcSda = .z ∧ s.rxBit.env.script = rest := by
  have hrise : (s.drive [(.rtcScl, .high)]).rtcChip.answers = false := by
    rw [← hsilent]
    exact congrArg _ (rtcRun_of_silent hsilent _ _ _ _)
  obtain ⟨hsample, hsilent', hscript'⟩ := read_of_sends hrise hz hscript
  refine ⟨hsample, ?_, ?_, hscript'⟩
  · rw [← hsilent']
    exact congrArg _ (rtcRun_of_silent hsilent' _ _ _ _)
  · rw [(rxBit_records s).2]
    exact hz

/-- The samples are the bits the peer sends, one batch each. -/
theorem rxState_of_sends {bits : List Bool} (hsilent : s.rtcChip.answers = false) (hz : lineGet s.drv .rtcSda = .z)
    (hscript : s.env.script = bits.map sends ++ rest) :
    rxSamples bits.length s = bits ∧ (rxState bits.length s).env.script = rest := by
  induction bits generalizing s with
  | nil => exact ⟨rfl, hscript⟩
  | cons bit bits ih =>
    obtain ⟨hsample, hsilent', hz', hscript'⟩ := rxBit_of_sends hsilent hz hscript
    obtain ⟨hsamples, hrest⟩ := ih hsilent' hz' hscript'
    exact ⟨by rw [List.length_cons, rxSamples, hsample, hsamples], hrest⟩

end Sent

/-- Settles O28: the eight samples are the bits of the byte sent, and a byte shifted in from its own bits is that byte. -/
theorem rxReceivesWhatThePeerSends : Obligations.RxReceivesWhatThePeerSends := by
  unfold Obligations.RxReceivesWhatThePeerSends
  intro s t ack v rest hmain hsilent hscript ht
  rw [exec_rtcRx_eq hmain] at ht
  cases ht
  have hrelease : (s.drive [(.rtcSda, .z)]).rtcChip.answers = false := by
    rw [← hsilent]
    exact congrArg _ (rtcRun_of_silent hsilent _ _ _ _)
  obtain ⟨hsamples, hrest⟩ := rxState_of_sends (bits := bitsMsbFirst v) hrelease rfl hscript
  refine ⟨?_, hrest⟩
  calc s.rxByte = (rxSamples 8 (s.drive [(.rtcSda, .z)])).foldl shiftIn 0 := rxByte_eq_foldl s
    _ = (bitsMsbFirst v).foldl shiftIn 0 := congrArg _ hsamples
    _ = v := foldl_shiftIn_bitsMsbFirst v 0

end Sys2Proof.Machine
end

section
/-! PROOF. RTC.GETTIME and RTC.INIT (rules R170 to R172, R180, R185, R186): what decoding makes of the two bytes received, that packed
digits decode to themselves, and RTC.INIT as its smaller operations. -/

namespace Sys2Proof.Machine

/-! ### Decoding -/

/-- The validity check is rule R185's condition. -/
theorem validTime_iff (t : TimeOfDay) :
    validTime t = true ↔ t.mt.toNat ≤ 5 ∧ t.mo.toNat ≤ 9 ∧ t.ho.toNat ≤ 9 ∧ 1 ≤ 10 * t.ht.toNat + t.ho.toNat
      ∧ 10 * t.ht.toNat + t.ho.toNat ≤ 12 := by
  simp only [validTime, Bool.and_eq_true, decide_eq_true_eq, and_assoc]
  exact Iff.rfl

/-- Two times differ exactly if a digit does (rule R172). -/
theorem differs_eq (new old : TimeOfDay) : differs new old = decide (new ≠ old) := by
  obtain ⟨ht, ho, mt, mo⟩ := new
  obtain ⟨ht', ho', mt', mo'⟩ := old
  rw [Bool.eq_iff_iff, decide_eq_true_eq, ne_eq, TimeOfDay.mk.injEq]
  simp only [differs, Bool.or_eq_true, bne_iff_ne, ne_eq]
  tauto

theorem settle_of_valid {new : TimeOfDay} (h : validTime new = true) (s : State) :
    s.settle new = { s with redraw := decide (new ≠ s.time), time := new } := by
  rw [State.settle, if_pos h, differs_eq]

theorem settle_time_of_valid {new : TimeOfDay} (h : validTime new = true) (s : State) : (s.settle new).time = new := by
  rw [settle_of_valid h]

theorem settle_rtcInvalid_of_valid {new : TimeOfDay} (h : validTime new = true) (s : State) :
    (s.settle new).rtcInvalid = s.rtcInvalid := by
  rw [settle_of_valid h]

theorem settle_of_invalid {new : TimeOfDay} (h : ¬ validTime new = true) (s : State) :
    s.settle new = { s with redraw := false, rtcInvalid := true } := by
  rw [State.settle, if_neg h]

/-- A decoded value becomes TIME or is rejected by rule R185's condition. -/
theorem settle_outcome (s : State) (new : TimeOfDay) :
    if new.mt.toNat ≤ 5 ∧ new.mo.toNat ≤ 9 ∧ new.ho.toNat ≤ 9 ∧ 1 ≤ 10 * new.ht.toNat + new.ho.toNat
        ∧ 10 * new.ht.toNat + new.ho.toNat ≤ 12 then
      (s.settle new).time = new ∧ (s.settle new).redraw = decide (new ≠ s.time) ∧ (s.settle new).rtcInvalid = s.rtcInvalid
    else (s.settle new).time = s.time ∧ (s.settle new).redraw = false ∧ (s.settle new).rtcInvalid = true := by
  split
  next h =>
    rw [settle_of_valid ((validTime_iff new).2 h)]
    exact ⟨rfl, rfl, rfl⟩
  next h =>
    rw [settle_of_invalid (mt (validTime_iff new).1 h)]
    exact ⟨rfl, rfl, rfl⟩

section
variable {s t : State} (h : LineActivity s t)
include h

theorem LineActivity.time_eq : t.time = s.time := by rw [h.1]

theorem LineActivity.rtcInvalid_eq : t.rtcInvalid = s.rtcInvalid := by rw [h.1]

theorem LineActivity.board_eq : t.board = s.board := by rw [h.1]

/-- Settling a decoded value adds TIME and the two flags to what line activity has changed. -/
theorem LineActivity.settle (new : TimeOfDay) :
    LineActivity { s with time := (t.settle new).time, redraw := (t.settle new).redraw, rtcInvalid := (t.settle new).rtcInvalid }
      (t.settle new) := by
  obtain ⟨heq, hpend⟩ := h
  by_cases hvalid : validTime new = true
  · rw [settle_of_valid hvalid]
    refine ⟨?_, hpend⟩
    rw [heq]
  · rw [settle_of_invalid hvalid]
    refine ⟨?_, hpend⟩
    rw [heq]

end

/-! ### RTC.GETTIME -/

theorem length_getEvents (b : Config.Board) (m h : Byte) : (getEvents b m h).length = 145 := by
  simp [getEvents, length_beginEvents, length_rxEvents, rtcStopEvents]

/-- The transfer of RTC.GETTIME: its lines, and the byte received last in RES. -/
theorem getTransfer_lineActivity (s : State) :
    LineActivity { s with res := s.rxHours.res } (s.rxHours.drive rtcStopWrites) := by
  have hminutes : LineActivity { s with res := s.rxMinutes.res } s.rxMinutes :=
    ((drive_lineActivity s _).with_res s.rxMinutes.res).trans (rx_lineActivity _ true)
  have hhours : LineActivity { s with res := s.rxHours.res } s.rxHours :=
    (hminutes.with_res s.rxHours.res).trans (rx_lineActivity s.rxMinutes false)
  exact hhours.trans (drive_lineActivity _ rtcStopWrites)

theorem getTransfer_records (s : State) :
    Records s (s.rxHours.drive rtcStopWrites) (getEvents s.board s.rxMinutes.res s.rxHours.res) := by
  have hbegin := drive_records s (beginWrites s.board .read s.board.regMinutes)
  rw [wroteAll_beginWrites] at hbegin
  exact ((hbegin.trans (rx_records _ true)).trans (rx_records s.rxMinutes false)).trans (drive_records _ rtcStopWrites)

theorem exec_rtcGettime_eq {s : State} (hmain : s.inHandler = false) : exec .rtcGettime s = .next s.getTime :=
  inMain_of_main hmain _

/-- Settles O29: the transfer leaves every register but RES alone, and then the decoded value is settled. -/
theorem getTimeDecodesOrRejects : Obligations.GetTimeDecodesOrRejects := by
  unfold Obligations.GetTimeDecodesOrRejects
  intro s hmain
  have hlines := getTransfer_lineActivity s
  obtain ⟨htrace, hdrv⟩ := getTransfer_records s
  have hsettle := settle_outcome (s.rxHours.drive rtcStopWrites) (decodeTime s.rxMinutes.res s.rxHours.res)
  rw [hlines.time_eq, hlines.rtcInvalid_eq] at hsettle
  refine ⟨s.getTime, s.rxMinutes.res, s.rxHours.res, exec_rtcGettime_eq hmain, ?_, length_getEvents _ _ _, hlines.settle _, ?_,
    hsettle⟩
  · rw [State.getTime, State.settle_trace, htrace]
  · rw [State.getTime, State.settle_drv, hdrv]

/-! ### Packed digits -/

theorem extract_encMinutes :
    ∀ (mt : BitVec 3) (mo : BitVec 4), (encMinutes mt mo).extractLsb' 4 3 = mt ∧ (encMinutes mt mo).extractLsb' 0 4 = mo := by
  decide

theorem extract_encHours :
    ∀ h : BitVec 4, ((encHours h).extractLsb' 4 1).toNat = h.toNat / 10 ∧ ((encHours h).extractLsb' 0 4).toNat = h.toNat % 10 := by
  decide

/-- Settles O31: the fields of the packed bytes are the digits, and the combined hour is the hour. -/
theorem packedTimeDecodesBack : Obligations.PackedTimeDecodesBack := by
  unfold Obligations.PackedTimeDecodesBack
  intro h mt mo hlo hhi hmt hmo
  obtain ⟨htens, hones⟩ := extract_encMinutes mt mo
  obtain ⟨hht, hho⟩ := extract_encHours h
  refine ⟨hht, hho, htens, hones, (validTime_iff _).2 ?_⟩
  simp only [decodeTime, htens, hones, hht, hho]
  omega

/-! ### RTC.INIT -/

theorem rx_board (s : State) (ack : Bool) : (s.rx ack).board = s.board := (rx_lineActivity s ack).board_eq

theorem readSeconds_inHandler (s : State) : s.readSeconds.inHandler = s.inHandler := by
  rw [State.readSeconds, State.drive_inHandler, rx_inHandler, State.drive_inHandler]

theorem readSeconds_board (s : State) : s.readSeconds.board = s.board := by
  rw [State.readSeconds, State.drive_board, rx_board, State.drive_board]

theorem execAll_rx_stop {s : State} (hmain : s.inHandler = false) (ack : Bool) :
    execAll [.rtcRx ack, .rtcStop] s = .next ((s.rx ack).drive rtcStopWrites) := by
  rw [execAll_cons_of_next (exec_rtcRx_eq hmain ack), execAll_singleton, exec_rtcStop_eq (by rw [rx_inHandler, hmain])]

/-- RTC.INIT's first part is the read of one byte (rule R180). -/
theorem execAll_readSeconds {s : State} (hmain : s.inHandler = false) :
    execAll [.rtcBegin .read s.board.regSeconds, .rtcRx false, .rtcStop] s = .next s.readSeconds := by
  have hbegin : exec (.rtcBegin .read s.board.regSeconds) s = .next (s.drive (beginWrites s.board .read s.board.regSeconds)) :=
    (writes_rtcBegin .read _).exec_singleton hmain
  rw [execAll_cons_of_next hbegin, execAll_rx_stop (by rw [State.drive_inHandler, hmain]), State.readSeconds]

/-- The start of a halted clock and RTC.GETTIME after it are their operations (rules R101, R180). -/
theorem execAll_start_getTime {a : State} (hmain : a.inHandler = false) :
    execAll [.rtcBegin .write a.board.regSeconds, .rtcTx 0x00, .rtcTx 0x00, .rtcTx 0x52, .rtcStop, .rtcGettime] a
      = .next (a.drive (setTimeWrites a.board 0x00 0x00 Config.hoursInit)).getTime := by
  calc _ = thenDo (execAll [.rtcBegin .write a.board.regSeconds, .rtcTx 0x00, .rtcTx 0x00, .rtcTx Config.hoursInit, .rtcStop] a)
        (execAll [.rtcGettime]) := execAll_append _ [.rtcGettime] a
    _ = _ := by
      rw [writes_time 0x00 0x00 Config.hoursInit a hmain rfl rfl, thenDo, execAll_singleton,
        exec_rtcGettime_eq (s := a.drive _) hmain]

/-- Settles O32: RTC.INIT goes on from the byte read by its bit 7. -/
theorem initStartsAHaltedClock : Obligations.InitStartsAHaltedClock := by
  unfold Obligations.InitStartsAHaltedClock
  intro s hmain
  have hread : s.readSeconds.inHandler = false := by rw [readSeconds_inHandler, hmain]
  refine ⟨s.readSeconds, s.rtcInit, execAll_readSeconds hmain, inMain_of_main hmain _, ?_⟩
  rw [State.rtcInit, State.startClock, haltBit]
  split
  · rw [← readSeconds_board, execAll_start_getTime hread]
  · rw [exec_rtcGettime_eq hread]

end Sys2Proof.Machine
end

section
/-! PROOF. A time written on the bus is read back (rules R66, R78, R186; log 8). While nothing but an answering RTC chip holds its data
line, the chip goes with every sequence of the block's writes from one state of its receiver to another; so a transfer is followed
byte by byte: three bytes stored from the seconds register on, two bytes sent from the minutes register on. -/

namespace Sys2Proof.Machine

/-! ### One pulse of the clock -/

/-- A pulse of the clock while the block lets the data line be at `x`: the chip samples it, unless it holds it low, and acts. -/
def rtcPulsed (b : Config.Board) (c : Config.RtcChip) (x : Bool) : Config.RtcChip := rtcFall b (rtcRise c (x && !c.low))

/-- The chip after a start, or between two bytes: it waits for the byte that its phase is for. -/
def awaits (c : Config.RtcChip) (p : Config.RtcPhase) : Config.RtcChip := { c with phase := p, shift := 0, count := 0, low := false }

/-- The chip after a stop. -/
def closed (c : Config.RtcChip) : Config.RtcChip := { c with phase := .idle, count := 0, low := false }

section Edges
variable (b : Config.Board) (c : Config.RtcChip) (x y : Bool)

/-- A rising clock moves the chip's receiver only. -/
theorem rtcRise_frame : rtcRise c x
    = { c with phase := (rtcRise c x).phase, shift := (rtcRise c x).shift, count := (rtcRise c x).count } := by
  unfold rtcRise
  repeat' split
  all_goals rfl

@[simp] theorem rtcRise_answers : (rtcRise c x).answers = c.answers := by rw [rtcRise_frame]

@[simp] theorem rtcRise_low : (rtcRise c x).low = c.low := by rw [rtcRise_frame]

theorem rtcRise_regs : (rtcRise c x).regs = c.regs := by rw [rtcRise_frame]

@[simp] theorem rtcFall_answers : (rtcFall b c).answers = c.answers := by
  unfold rtcFall
  repeat' split
  all_goals rfl

@[simp] theorem rtcPulsed_answers : (rtcPulsed b c x).answers = c.answers := by simp [rtcPulsed]

/-- Sampling changes neither the registers nor the pointer, and a start forgets what was sampled. -/
theorem awaits_rtcRise (p : Config.RtcPhase) : awaits (rtcRise c x) p = awaits c p := by
  rw [rtcRise_frame]
  rfl

theorem rtcEdge_of_clock_low : rtcEdge b c false x false y = c := by simp [rtcEdge]

variable {c}

theorem rtcEdge_of_clock_rise (h : c.answers = true) : rtcEdge b c false x true y = rtcRise c y := by simp [rtcEdge, h]

theorem rtcEdge_of_clock_fall (h : c.answers = true) : rtcEdge b c true x false y = rtcFall b c := by simp [rtcEdge, h]

theorem rtcEdge_of_start (h : c.answers = true) : rtcEdge b c true true true false = awaits c .address := by
  simp [rtcEdge, h, awaits]

theorem rtcEdge_of_stop (h : c.answers = true) : rtcEdge b c true false true true = closed c := by simp [rtcEdge, h, closed]

end Edges

/-! ### Writes while the block drives the clock -/

/-- The block drives the clock to the level `l.1`, and holds the data line low or lets it go as `l.2` says (rule R160). -/
def OnBus (drv : LineMap Drive) (l : Bool × Bool) : Prop :=
  lineGet drv .rtcScl = driveTo l.1 ∧ lineGet drv .rtcSda = (sda l.2).2

/-- With the bus at `l` and nothing but the chip holding the data line, the writes take the bus to `l'` and the chip from `c` to `c'`. -/
def RtcTakes (b : Config.Board) (ws : List (Line × Drive)) (l : Bool × Bool) (c : Config.RtcChip) (l' : Bool × Bool)
    (c' : Config.RtcChip) : Prop :=
  ∀ held drv, lineGet held .rtcSda = false → OnBus drv l → OnBus (driveAll drv ws) l' ∧ rtcRun b held drv c ws = c'

section Takes
variable {b : Config.Board} {c c1 c2 : Config.RtcChip} {l l1 l2 : Bool × Bool}

theorem RtcTakes.nil : RtcTakes b [] l c l c := fun _ _ _ hl => ⟨hl, rfl⟩

theorem RtcTakes.append {u v : List (Line × Drive)} (hu : RtcTakes b u l c l1 c1) (hv : RtcTakes b v l1 c1 l2 c2) :
    RtcTakes b (u ++ v) l c l2 c2 := by
  intro held drv hheld hl
  obtain ⟨hl1, hc1⟩ := hu held drv hheld hl
  rw [driveAll_append, rtcRun_append, hc1]
  exact hv held _ hheld hl1

theorem OnBus.lineLevel_scl {drv : LineMap Drive} (h : OnBus drv l) (held : LineMap Bool) : lineLevel held drv .rtcScl = l.1 := by
  rw [lineLevel, h.1, levelOf_driveTo]

theorem OnBus.lineLevel_sda {drv : LineMap Drive} {held : LineMap Bool} (h : OnBus drv l) (hheld : lineGet held .rtcSda = false) :
    lineLevel held drv .rtcSda = l.2 := by
  rw [lineLevel, h.2, hheld]
  cases l.2 <;> rfl

/-- One write on the bus is the edge between the levels before it and after it; the chip may hold the data line low. -/
theorem RtcTakes.write {w : Line × Drive} (h : ∀ drv, OnBus drv l → OnBus (lineSet drv w.1 w.2) l1) :
    RtcTakes b [w] l c l1 (rtcEdge b c l.1 (l.2 && !rtcPulls c) l1.1 (l1.2 && !rtcPulls c)) := by
  intro held drv hheld hl
  have hl1 := h drv hl
  refine ⟨hl1, ?_⟩
  rw [rtcRun, rtcRun, rtcMoves, hl.lineLevel_scl, hl1.lineLevel_scl, hl.lineLevel_sda hheld, hl1.lineLevel_sda hheld]

theorem RtcTakes.data (k x x' : Bool) :
    RtcTakes b [sda x'] (k, x) c (k, x') (rtcEdge b c k (x && !rtcPulls c) k (x' && !rtcPulls c)) :=
  .write fun drv hl => ⟨by simpa [sda, lineGet_lineSet] using hl.1, by simp [sda, lineGet_lineSet]⟩

theorem RtcTakes.clock (k k' x : Bool) :
    RtcTakes b [(.rtcScl, driveTo k')] (k, x) c (k', x) (rtcEdge b c k (x && !rtcPulls c) k' (x && !rtcPulls c)) :=
  .write fun drv hl => ⟨by simp [lineGet_lineSet], by simpa [lineGet_lineSet] using hl.2⟩

/-- While the clock is low the data line may move. -/
theorem rtcTakes_data_of_clock_low (x x' : Bool) : RtcTakes b [sda x'] (false, x) c (false, x') c := by
  have h := RtcTakes.data (b := b) (c := c) false x x'
  rwa [rtcEdge_of_clock_low] at h

section Answers
variable (h : c.answers = true)
include h

theorem rtcTakes_rise (x : Bool) : RtcTakes b [(.rtcScl, .high)] (false, x) c (true, x) (rtcRise c (x && !c.low)) := by
  have hrise := RtcTakes.clock (b := b) (c := c) false true x
  rwa [rtcEdge_of_clock_rise b _ _ h, rtcPulls, h, Bool.true_and] at hrise

theorem rtcTakes_fall (x : Bool) : RtcTakes b [(.rtcScl, .low)] (true, x) c (false, x) (rtcFall b c) := by
  have hfall := RtcTakes.clock (b := b) (c := c) true false x
  rwa [rtcEdge_of_clock_fall b _ _ h] at hfall

theorem rtcTakes_pulse (x : Bool) : RtcTakes b (pulse .rtcScl) (false, x) c (false, x) (rtcPulsed b c x) :=
  (rtcTakes_rise h x).append (rtcTakes_fall (by rw [rtcRise_answers, h]) x)

/-- The bits of a transmitted byte and its acknowledge are pulses of the clock (rule R163). -/
theorem rtcTakes_bits (bits : List Bool) (x : Bool) :
    ∃ x', RtcTakes b (bits.flatMap fun bit => sda bit :: pulse .rtcScl) (false, x) c (false, x') (bits.foldl (rtcPulsed b) c) := by
  induction bits generalizing c x with
  | nil => exact ⟨x, .nil⟩
  | cons bit bits ih =>
    obtain ⟨x', hrest⟩ := ih (c := rtcPulsed b c bit) (by rw [rtcPulsed_answers, h]) bit
    exact ⟨x', ((rtcTakes_data_of_clock_low x bit).append (rtcTakes_pulse h bit)).append hrest⟩

theorem foldl_rtcPulsed_answers (bits : List Bool) : (bits.foldl (rtcPulsed b) c).answers = true := by
  induction bits generalizing c with
  | nil => exact h
  | cons bit bits ih => exact ih (by rw [rtcPulsed_answers, h])

theorem rtcTakes_txWrites (v : Byte) (x : Bool) :
    RtcTakes b (txWrites v) (false, x) c (false, true) (rtcPulsed b ((bitsMsbFirst v).foldl (rtcPulsed b) c) true) := by
  obtain ⟨x', hbits⟩ := rtcTakes_bits (b := b) h (bitsMsbFirst v) x
  rw [bitsMsbFirst, List.flatMap_map] at hbits
  exact hbits.append ((rtcTakes_data_of_clock_low x' true).append (rtcTakes_pulse (foldl_rtcPulsed_answers h _) true))

/-- A start, from an idle bus or repeated: the chip waits for the address byte (rule R161). -/
theorem rtcTakes_rtcStartWrites (hlow : c.low = false) (k : Bool) :
    RtcTakes b rtcStartWrites (k, true) c (false, false) (awaits c .address) := by
  obtain ⟨c1, hrise, hawaits, hanswers, hlow1⟩ : ∃ c1, RtcTakes b [(.rtcScl, .high)] (k, true) c (true, true) c1
      ∧ awaits c1 .address = awaits c .address ∧ c1.answers = true ∧ c1.low = false := by
    cases k with
    | false => exact ⟨_, rtcTakes_rise h true, awaits_rtcRise c _ _, by rw [rtcRise_answers, h], by rw [rtcRise_low, hlow]⟩
    | true =>
      have hsteady := RtcTakes.clock (b := b) (c := c) true true true
      rw [rtcEdge_same] at hsteady
      exact ⟨c, hsteady, rfl, h, hlow⟩
  have hstart := RtcTakes.data (b := b) (c := c1) true true false
  rw [rtcPulls, hlow1, Bool.and_false, Bool.not_false, Bool.true_and, Bool.false_and, rtcEdge_of_start b hanswers, hawaits] at hstart
  exact hrise.append (hstart.append (rtcTakes_fall (c := awaits c .address) h false))

/-- A stop ends the transfer (rule R162). -/
theorem rtcTakes_rtcStopWrites (hlow : c.low = false) (x : Bool) :
    RtcTakes b rtcStopWrites (false, x) c (true, true) (closed (rtcRise c false)) := by
  have hstop := RtcTakes.data (b := b) (c := rtcRise c false) true false true
  rw [rtcPulls, rtcRise_low, hlow, Bool.and_false, Bool.not_false, Bool.true_and, Bool.false_and,
    rtcEdge_of_stop b ((rtcRise_answers c false).trans h)] at hstop
  exact (rtcTakes_data_of_clock_low x false).append ((rtcTakes_rise h false).append hstop)

end Answers

/-! ### Bytes the chip receives -/

/-- The phases in which the chip receives a byte. -/
def Hears (p : Config.RtcPhase) : Prop := p = .address ∨ p = .pointer ∨ p = .store

/-- The chip after it has sampled a bit of a byte. -/
def heard (c : Config.RtcChip) (bit : Bool) : Config.RtcChip := { c with shift := shiftIn c.shift bit, count := c.count + 1 }

theorem foldl_heard (bits : List Bool) (c : Config.RtcChip) :
    bits.foldl heard c = { c with shift := bits.foldl shiftIn c.shift, count := c.count + bits.length } := by
  induction bits generalizing c with
  | nil => rfl
  | cons bit bits ih => simp [ih, heard, Nat.add_assoc, Nat.add_comm 1]

theorem rtcRise_of_hears (hp : Hears c.phase) (hcount : c.count < 8) (bit : Bool) : rtcRise c bit = heard c bit := by
  obtain hp | hp | hp := hp <;> simp [rtcRise, hp, hcount, heard, shiftIn]

/-- Within a byte a falling clock changes nothing. -/
theorem rtcFall_of_hears (hp : Hears c.phase) (hcount : c.count < 8) : rtcFall b c = c := by
  have h8 : c.count ≠ 8 := by omega
  have h9 : c.count ≠ 9 := by omega
  obtain hp | hp | hp := hp <;> simp [rtcFall, hp, h8, h9]

/-- The bits up to the eighth are sampled, and then the chip acts on the byte. -/
theorem foldl_rtcPulsed_of_hears {bits : List Bool} (hp : Hears c.phase) (hlow : c.low = false) (hne : bits ≠ [])
    (hcount : c.count + bits.length = 8) : bits.foldl (rtcPulsed b) c = rtcFall b (bits.foldl heard c) := by
  induction bits generalizing c with
  | nil => exact absurd rfl hne
  | cons bit bits ih =>
    rw [List.length_cons] at hcount
    have hpulse : rtcPulsed b c bit = rtcFall b (heard c bit) := by
      rw [rtcPulsed, hlow, Bool.not_false, Bool.and_true, rtcRise_of_hears hp (by omega)]
    rw [List.foldl_cons, List.foldl_cons, hpulse]
    cases bits with
    | nil => rfl
    | cons bit' bits =>
      have hnext : (heard c bit).count + (bit' :: bits).length = 8 := by
        rw [← hcount, heard, Nat.add_assoc, Nat.add_comm 1]
      have hfall : rtcFall b (heard c bit) = heard c bit := by
        refine rtcFall_of_hears hp ?_
        rw [List.length_cons] at hnext
        omega
      rw [hfall]
      exact ih hp hlow nofun hnext

/-- A transmitted byte is heard whole, acted on, and its acknowledge clocked (rule R163). -/
theorem rtcTakes_txWrites_of_hears {p : Config.RtcPhase} (h : c.answers = true) (hp : Hears p) (v : Byte) (x : Bool) :
    RtcTakes b (txWrites v) (false, x) (awaits c p) (false, true)
      (rtcPulsed b (rtcFall b { awaits c p with shift := v, count := 8 }) true) := by
  have hheard := foldl_rtcPulsed_of_hears (b := b) (c := awaits c p) (bits := bitsMsbFirst v) hp rfl nofun rfl
  rw [foldl_heard, foldl_shiftIn_bitsMsbFirst] at hheard
  exact hheard ▸ rtcTakes_txWrites (c := awaits c p) h v x

/-- The chip with a byte stored where its pointer is, and the pointer moved on (rule R66). -/
def stored (c : Config.RtcChip) (v : Byte) : Config.RtcChip := { c with regs := memWrite c.regs c.ptr.toNat v, ptr := c.ptr + 1 }

section Answers
variable (h : c.answers = true)
include h

/-- After the write address the chip waits for the register pointer. -/
theorem rtcTakes_writeAddress (x : Bool) :
    RtcTakes b (txWrites b.rtcAddrW) (false, x) (awaits c .address) (false, true) (awaits c .pointer) := by
  have htx := rtcTakes_txWrites_of_hears (b := b) (p := .address) h (.inl rfl) b.rtcAddrW x
  simpa [rtcFall, rtcPulsed, rtcRise, awaits] using htx

/-- After the register pointer the chip stores. -/
theorem rtcTakes_pointer (reg : Byte) (x : Bool) :
    RtcTakes b (txWrites reg) (false, x) (awaits c .pointer) (false, true) (awaits { c with ptr := reg } .store) := by
  have htx := rtcTakes_txWrites_of_hears (b := b) (p := .pointer) h (.inr (.inl rfl)) reg x
  simpa [rtcFall, rtcPulsed, rtcRise, awaits] using htx

theorem rtcTakes_store (v : Byte) (x : Bool) :
    RtcTakes b (txWrites v) (false, x) (awaits c .store) (false, true) (awaits (stored c v) .store) := by
  have htx := rtcTakes_txWrites_of_hears (b := b) (p := .store) h (.inr (.inr rfl)) v x
  simpa [rtcFall, rtcPulsed, rtcRise, awaits, stored] using htx

end Answers

/-! ### Bytes the chip sends -/

/-- The chip after `n` bits of the byte its pointer names; after the eighth it has let go and moved its pointer on. -/
def sending (c : Config.RtcChip) (n : Nat) : Config.RtcChip :=
  if n < 8 then { c with phase := .send, count := n, low := rtcSendsLow c n }
  else { c with phase := .send, count := 8, low := false, ptr := c.ptr + 1 }

/-- After the read address the chip sends the first bit of the register its pointer names. -/
theorem rtcTakes_readAddress (h : c.answers = true) (haddr : b.rtcAddrW ≠ b.rtcAddrR) (x : Bool) :
    RtcTakes b (txWrites b.rtcAddrR) (false, x) (awaits c .address) (false, true) (sending { c with shift := b.rtcAddrR } 0) := by
  have htx := rtcTakes_txWrites_of_hears (b := b) (p := .address) h (.inl rfl) b.rtcAddrR x
  simpa [rtcFall, rtcPulsed, rtcRise, awaits, sending, rtcSendsLow, haddr.symm] using htx

theorem sending_low {n : Nat} (hn : n < 8) : (sending c n).low = rtcSendsLow c n := by rw [sending, if_pos hn]

theorem sending_answers (n : Nat) : (sending c n).answers = c.answers := by
  unfold sending
  split <;> rfl

/-- A pulse of the clock is one bit sent. -/
theorem rtcPulsed_sending {n : Nat} (hn : n < 8) (x : Bool) : rtcPulsed b (sending c n) x = sending c (n + 1) := by
  have h9 : n + 1 ≠ 9 := by omega
  by_cases h8 : n + 1 < 8
  · have hne : n + 1 ≠ 8 := by omega
    simp [rtcPulsed, sending, hn, h8, rtcRise, rtcFall, hne, h9, rtcSendsLow]
  · have heq : n = 7 := by omega
    subst heq
    simp [rtcPulsed, sending, rtcRise, rtcFall]

/-- An acknowledged byte is followed by the next one. -/
theorem rtcPulsed_ack : rtcPulsed b (sending c 8) false = sending { c with ptr := c.ptr + 1 } 0 := by
  simp [rtcPulsed, sending, rtcRise, rtcFall, rtcSendsLow]

theorem rtcTakes_ackWrites (h : c.answers = true) :
    RtcTakes b (ackWrites true) (false, true) (sending c 8) (false, false) (sending { c with ptr := c.ptr + 1 } 0) := by
  have hpulse := rtcTakes_pulse (b := b) ((sending_answers 8).trans h) false
  rw [rtcPulsed_ack] at hpulse
  exact (rtcTakes_data_of_clock_low true false).append hpulse

/-! ### Transfers -/

/-- A write transfer is addressed: the chip stores from the register on (rule R165). -/
theorem rtcTakes_begin_write (h : c.answers = true) (hlow : c.low = false) (k : Bool) (reg : Byte) :
    RtcTakes b (beginWrites b .write reg) (k, true) c (false, true) (awaits { c with ptr := reg } .store) := by
  rw [beginWrites, List.append_nil]
  exact ((rtcTakes_rtcStartWrites h hlow k).append (rtcTakes_writeAddress h false)).append (rtcTakes_pointer h reg true)

/-- A read transfer is addressed: the chip sends from the register on (rule R165). -/
theorem rtcTakes_begin_read (h : c.answers = true) (hlow : c.low = false) (haddr : b.rtcAddrW ≠ b.rtcAddrR) (k : Bool) (reg : Byte) :
    RtcTakes b (beginWrites b .read reg) (k, true) c (false, true) (sending { c with ptr := reg, shift := b.rtcAddrR } 0) := by
  have hwrite := rtcTakes_begin_write (b := b) h hlow k reg
  rw [beginWrites, List.append_nil] at hwrite
  have hstart := rtcTakes_rtcStartWrites (b := b) (c := awaits { c with ptr := reg } .store) h rfl false
  exact hwrite.append (hstart.append (rtcTakes_readAddress (c := { c with ptr := reg }) h haddr false))

/-- The three bytes of a write transfer are stored from the seconds register on (rules R66, R175). -/
theorem rtcTakes_setTimeWrites (h : c.answers = true) (hlow : c.low = false) (k : Bool) (sec min hour : Byte) :
    RtcTakes b (setTimeWrites b sec min hour) (k, true) c (true, true)
      (closed (rtcRise (awaits (stored (stored (stored { c with ptr := b.regSeconds } sec) min) hour) .store) false)) := by
  have hbegin := rtcTakes_begin_write (b := b) h hlow k b.regSeconds
  have hsec := rtcTakes_store (b := b) (c := { c with ptr := b.regSeconds }) h sec true
  have hmin := rtcTakes_store (b := b) (c := stored { c with ptr := b.regSeconds } sec) h min true
  have hhour := rtcTakes_store (b := b) (c := stored (stored { c with ptr := b.regSeconds } sec) min) h hour true
  have hstop := rtcTakes_rtcStopWrites (b := b)
    (c := awaits (stored (stored (stored { c with ptr := b.regSeconds } sec) min) hour) .store) h rfl true
  rw [setTimeWrites]
  exact (((hbegin.append hsec).append hmin).append hhour).append hstop

end Takes

/-! ### Reading in a quiet environment -/

/-- The bus is at `l` with the chip `c` on it, nothing else holds the data line, and the environment's next `n` batches are empty. -/
structure QuietBus (b : Config.Board) (rest : List (List EnvEvent)) (n : Nat) (l : Bool × Bool) (c : Config.RtcChip) (s : State) :
    Prop where
  board : s.board = b
  held : lineGet s.env.held .rtcSda = false
  script : s.env.script = List.replicate n [] ++ rest
  bus : OnBus s.drv l
  chip : s.rtcChip = c

section Quiet
variable {b : Config.Board} {rest : List (List EnvEvent)} {n : Nat} {l l' : Bool × Bool} {c c' : Config.RtcChip} {s : State}

theorem QuietBus.drive (h : QuietBus b rest n l c s) {ws : List (Line × Drive)} (hws : RtcTakes b ws l c l' c') :
    QuietBus b rest n l' c' (s.drive ws) := by
  obtain ⟨hbus, hchip⟩ := hws s.env.held s.drv h.held h.bus
  refine ⟨h.board, h.held, h.script, hbus, ?_⟩
  rw [← hchip, ← h.chip, ← h.board]
  rfl

theorem QuietBus.withMail (h : QuietBus b rest n l c s) (r : Byte) (e : Event) : QuietBus b rest n l c (s.withMail r e) :=
  ⟨h.board, h.held, h.script, h.bus, h.chip⟩

/-- An empty batch uses up one chance to act and nothing else. -/
theorem beforeRead_of_quiet (hz : lineGet s.drv .rtcSda = .z) (hscript : s.env.script = [] :: rest) :
    s.beforeRead .rtcSda = { s with env := { s.env with script := rest } } := by
  rw [beforeRead_of_released s _ hz, arrive_of_script hscript, absorb_nil]

/-- A read of the data line finds it low exactly if the chip holds it. -/
theorem QuietBus.read {k : Bool} (h : QuietBus b rest (n + 1) (k, true) c s) (hanswers : c.answers = true) :
    s.readsAs .rtcSda = !c.low ∧ QuietBus b rest n (k, true) c (s.afterRead .rtcSda) := by
  have hz : lineGet s.drv .rtcSda = .z := h.bus.2
  have hbefore := beforeRead_of_quiet hz h.script
  constructor
  · rw [State.readsAs, hbefore]
    simp [State.level, hz, levelOf, h.held, h.chip, rtcPulls, hanswers]
  · rw [State.afterRead, hbefore]
    exact ⟨h.board, h.held, rfl, h.bus, h.chip⟩

theorem QuietBus.rxBit (h : QuietBus b rest (n + 1) (false, true) c s) (hanswers : c.answers = true) :
    s.rxSample = !c.low ∧ QuietBus b rest n (false, true) (rtcPulsed b c true) s.rxBit := by
  have hrise := h.drive (rtcTakes_rise hanswers true)
  have hanswers' := (rtcRise_answers c (true && !c.low)).trans hanswers
  obtain ⟨hsample, hread⟩ := hrise.read hanswers'
  rw [rtcRise_low] at hsample
  exact ⟨hsample, hread.drive (rtcTakes_fall hanswers' true)⟩

/-- The samples are the bits sent. -/
theorem QuietBus.rxState {k m : Nat} (h : QuietBus b rest (k + n) (false, true) (sending c m) s) (hanswers : c.answers = true)
    (hm : m + k ≤ 8) :
    rxSamples k s = (List.range' m k).map (fun i => !rtcSendsLow c i)
      ∧ QuietBus b rest n (false, true) (sending c (m + k)) (rxState k s) := by
  induction k generalizing m s with
  | zero =>
    rw [Nat.zero_add] at h
    exact ⟨rfl, h⟩
  | succ k ih =>
    have hlt : m < 8 := by omega
    rw [Nat.add_right_comm] at h
    obtain ⟨hsample, hbit⟩ := h.rxBit ((sending_answers m).trans hanswers)
    rw [sending_low hlt] at hsample
    rw [rtcPulsed_sending hlt] at hbit
    obtain ⟨hsamples, hstate⟩ := ih hbit (by omega)
    rw [Nat.add_right_comm, Nat.add_assoc] at hstate
    exact ⟨by rw [rxSamples, hsample, hsamples, List.range'_succ, List.map_cons], hstate⟩

/-- A byte received is the register the chip's pointer names (rule R78). -/
theorem QuietBus.rxByte {x : Bool} (h : QuietBus b rest (8 + n) (false, x) (sending c 0) s) (hanswers : c.answers = true) :
    s.rxByte = memRead c.regs c.ptr.toNat
      ∧ QuietBus b rest n (false, true) (sending c 8) (Machine.rxState 8 (s.drive [(.rtcSda, .z)])) := by
  have hrelease := h.drive (rtcTakes_data_of_clock_low x true)
  obtain ⟨hsamples, hstate⟩ := hrelease.rxState hanswers le_rfl
  have hbits : (List.range' 0 8).map (fun i => !rtcSendsLow c i) = bitsMsbFirst (memRead c.regs c.ptr.toNat) := by
    simp only [rtcSendsLow, Bool.not_not]
    rfl
  refine ⟨bitsMsbFirst_injective ?_, hstate⟩
  rw [bitsMsbFirst_rxByte, ← hbits]
  exact hsamples

theorem QuietBus.rx_ack {x : Bool} (h : QuietBus b rest (8 + n) (false, x) (sending c 0) s) (hanswers : c.answers = true) :
    QuietBus b rest n (false, false) (sending { c with ptr := c.ptr + 1 } 0) (s.rx true) := by
  obtain ⟨-, hstate⟩ := h.rxByte hanswers
  rw [rx_eq]
  exact (hstate.drive (rtcTakes_ackWrites hanswers)).withMail _ _

/-- RTC.GETTIME receives the minutes register and the one after it (rule R170). -/
theorem QuietBus.getTime (h : QuietBus b rest 16 (true, true) c s) (hanswers : c.answers = true) (hlow : c.low = false)
    (haddr : b.rtcAddrW ≠ b.rtcAddrR) :
    s.rxMinutes.res = memRead c.regs b.regMinutes.toNat ∧ s.rxHours.res = memRead c.regs (b.regMinutes + 1).toNat := by
  have hbegin := h.drive (rtcTakes_begin_read hanswers hlow haddr true b.regMinutes)
  rw [← h.board] at hbegin ⊢
  exact ⟨(hbegin.rxByte (n := 8) hanswers).1, ((hbegin.rx_ack (n := 8) hanswers).rxByte (n := 0) hanswers).1⟩

end Quiet

/-! ### Written and read back -/

/-- The minutes register is the one after the seconds register (rule R66). -/
theorem regMinutes_of_valid {b : Config.Board} (h : b.valid = true) : b.regMinutes = b.regSeconds + 1 := by
  simp only [Config.Board.valid, Bool.and_eq_true, and_assoc, beq_iff_eq] at h
  obtain ⟨hminutes, -⟩ := h
  bv_omega

/-- Of three bytes stored one after the other the second and the third are read where they were stored (rule R66). -/
theorem memRead_stored {c : Config.RtcChip} (hwf : memWf c.regs = true) (sec min hour : Byte) :
    memRead (stored (stored (stored c sec) min) hour).regs (c.ptr + 1).toNat = min
      ∧ memRead (stored (stored (stored c sec) min) hour).regs (c.ptr + 1 + 1).toNat = hour := by
  have hsec := memWf_memWrite c.regs c.ptr.toNat sec hwf
  have hmin := memWf_memWrite _ (c.ptr + 1).toNat min hsec
  have hne : (c.ptr + 1).toNat ≠ (c.ptr + 1 + 1).toNat := by bv_omega
  constructor
  · rw [stored, stored, stored, memRead_memWrite _ _ _ _ hmin, if_neg hne, memRead_memWrite _ _ _ _ hsec, if_pos rfl]
  · rw [stored, stored, stored, memRead_memWrite _ _ _ _ hmin, if_pos rfl]

theorem setTime_rtcInvalid (s : State) : s.setTime.rtcInvalid = s.rtcInvalid := by rw [State.setTime, State.drive_rtcInvalid]

theorem getTransfer_rtcInvalid (s : State) : (s.rxHours.drive rtcStopWrites).rtcInvalid = s.rtcInvalid :=
  (getTransfer_lineActivity s).rtcInvalid_eq

/-- RTC.SETTIME and RTC.GETTIME on the bus: the two packed bytes are received (rule R186). -/
theorem QuietBus.setTime_getTime {b : Config.Board} {rest : List (List EnvEvent)} {c : Config.RtcChip} {s : State}
    (h : QuietBus b rest 16 (true, true) c s) (hvalid : b.valid = true) (haddr : b.rtcAddrW ≠ b.rtcAddrR)
    (hanswers : c.answers = true) (hlow : c.low = false) (hwf : memWf c.regs = true) :
    s.setTime.rxMinutes.res = encMinutes s.scratch.mt s.scratch.mo ∧ s.setTime.rxHours.res = encHours s.scratch.h := by
  have hset := h.drive (rtcTakes_setTimeWrites hanswers hlow true 0x00 (encMinutes s.scratch.mt s.scratch.mo)
    (encHours s.scratch.h))
  rw [← h.board, ← State.setTime, h.board] at hset
  obtain ⟨hminutes, hhours⟩ := hset.getTime ((rtcRise_answers _ _).trans hanswers) rfl haddr
  have hregs := memRead_stored (c := { c with ptr := b.regSeconds }) hwf 0x00 (encMinutes s.scratch.mt s.scratch.mo)
    (encHours s.scratch.h)
  rw [hminutes, hhours, regMinutes_of_valid hvalid, closed, rtcRise_regs]
  exact hregs

/-- Settles O33: the bytes received are the packed digits, which decode to themselves. -/
theorem timeWrittenIsTimeReadBack : Obligations.TimeWrittenIsTimeReadBack := by
  unfold Obligations.TimeWrittenIsTimeReadBack
  intro s a t rest hmain hvalid haddr hanswers hwf hscl hsda hlow hheld hscript hlo hhi hmt hmo ha ht
  have hbus : QuietBus s.board rest 16 (true, true) s.rtcChip s := ⟨rfl, hheld, hscript, ⟨hscl, hsda⟩, rfl⟩
  have hmain' : s.setTime.inHandler = false := by rw [State.setTime, State.drive_inHandler, hmain]
  rw [exec_rtcSettime_eq hmain] at ha
  cases ha
  rw [exec_rtcGettime_eq hmain'] at ht
  cases ht
  obtain ⟨hminutes, hhours⟩ := hbus.setTime_getTime hvalid haddr hanswers hlow hwf
  obtain ⟨hht, hho, hmt', hmo', hok⟩ := packedTimeDecodesBack s.scratch.h s.scratch.mt s.scratch.mo hlo hhi hmt hmo
  have hinvalid := (getTransfer_rtcInvalid s.setTime).trans (setTime_rtcInvalid s)
  rw [State.getTime, hminutes, hhours, settle_time_of_valid hok, settle_rtcInvalid_of_valid hok]
  exact ⟨hht, hho, hmt', hmo', hinvalid⟩

end Sys2Proof.Machine
end

section
/-! PROOF. The frame buffer as a picture, one byte a cell (rules R62, R200, R201): each painting function is an update of the picture,
so a screen is the updates one after the other. FB.CLEAR and FB.BIGCHAR. -/

namespace Sys2Proof.Machine

/-! ### Pictures -/

/-- The frame buffer, in its canonical form, holds `p x` in every cell `x` of the grid. -/
def Shows (fb : Memory) (p : Cell → Byte) : Prop := memWf fb = true ∧ ∀ x, memRead fb (cellAddr x) = p x

theorem shows_self {fb : Memory} (h : memWf fb = true) : Shows fb fun x => memRead fb (cellAddr x) := ⟨h, fun _ => rfl⟩

/-- Different cells have different addresses (rule R62). -/
theorem cellAddr_inj {x y : Cell} : cellAddr x = cellAddr y ↔ x = y := by
  refine ⟨fun h => ?_, fun h => by rw [h]⟩
  obtain ⟨⟨r, hr⟩, ⟨c, hc⟩⟩ := x
  obtain ⟨⟨r', hr'⟩, ⟨c', hc'⟩⟩ := y
  simp only [cellAddr, fbAddr] at h
  simp only [Cell.mk.injEq, Fin.mk.injEq]
  omega

/-- The picture with a glyph copied over it from column `col` on (rule R201, D35). -/
def glyphOver (b : Config.Board) (g col : Nat) (p : Cell → Byte) (x : Cell) : Byte :=
  if col ≤ x.col.val ∧ x.col.val ≤ col + 4 then fontByte b g x.row.val (x.col.val - col) else p x

section Columns
variable {b : Config.Board} {g col : Nat} {p : Cell → Byte} {x : Cell}

theorem glyphOver_of_lt (h : x.col.val < col) : glyphOver b g col p x = p x := if_neg (by omega)

theorem glyphOver_of_gt (h : col + 4 < x.col.val) : glyphOver b g col p x = p x := if_neg (by omega)

theorem glyphOver_of_mem (hlo : col ≤ x.col.val) (hhi : x.col.val ≤ col + 4) :
    glyphOver b g col p x = fontByte b g x.row.val (x.col.val - col) := if_pos ⟨hlo, hhi⟩

end Columns

theorem glyphWrites_addresses (b : Config.Board) (g col : Nat) :
    (glyphWrites b g col).map (·.1) = ((List.range 6).flatMap fun r => (List.range 5).map fun c => fbAddr r c).map (· + col) := by
  simp only [glyphWrites, fbAddr, List.map_flatMap, List.map_map, Function.comp_def, Nat.add_assoc, Nat.add_comm col]

/-- The 30 writes of a glyph name 30 addresses (rule R201). -/
theorem glyphWrites_addresses_nodup (b : Config.Board) (g col : Nat) : ((glyphWrites b g col).map (·.1)).Nodup := by
  rw [glyphWrites_addresses]
  exact List.Nodup.map (add_left_injective col) (by decide)

theorem mem_glyphWrites {b : Config.Board} {g col : Nat} {w : Nat × Byte} :
    w ∈ glyphWrites b g col ↔ ∃ r < 6, ∃ c < 5, (fbAddr r (col + c), fontByte b g r c) = w := by
  simp [glyphWrites]

section Shows
variable {fb : Memory} {p : Cell → Byte} (h : Shows fb p)
include h

theorem Shows.paint (x : Cell) (v : Byte) : Shows (paint x v fb) (Function.update p x v) := by
  obtain ⟨hwf, hread⟩ := h
  refine ⟨memWf_memWrite _ _ _ hwf, fun y => ?_⟩
  simp only [Machine.paint, memRead_memWrite _ _ _ _ hwf, cellAddr_inj, hread, Function.update_apply]

theorem Shows.paintOr (x : Cell) (v : Byte) : Shows (paintOr x v fb) (Function.update p x (p x ||| v)) := by
  rw [← h.2 x]
  exact h.paint x _

/-- A glyph inside the grid covers its five columns of every row and nothing else (rule R201). -/
theorem Shows.bigChar (b : Config.Board) (g : Nat) {col : Nat} (hcol : col ≤ 19) :
    Shows (bigChar b g col fb) (glyphOver b g col p) := by
  obtain ⟨hwf, hread⟩ := h
  refine ⟨memWf_memWriteAll _ _ hwf, fun x => ?_⟩
  unfold glyphOver
  split
  next hin =>
    refine memRead_memWriteAll_of_mem _ _ _ _ hwf (glyphWrites_addresses_nodup b g col) (mem_glyphWrites.2 ?_)
    have hcolumn : col + (x.col.val - col) = x.col.val := by omega
    exact ⟨x.row.val, x.row.isLt, x.col.val - col, by omega, by rw [hcolumn]; rfl⟩
  next hout =>
    refine (memRead_memWriteAll_of_notMem _ _ _ hwf fun w hw => ?_).trans (hread x)
    obtain ⟨r, -, c, hc, rfl⟩ := mem_glyphWrites.1 hw
    have hx := x.col.isLt
    simp only [cellAddr, fbAddr]
    omega

end Shows

/-! ### FB.CLEAR and FB.BIGCHAR -/

/-- Settles O34: no byte of the cleared frame buffer is listed. -/
theorem clearZeroesTheGrid : Obligations.ClearZeroesTheGrid := by
  unfold Obligations.ClearZeroesTheGrid
  intro s hmain
  exact ⟨s.fbClear, inMain_of_main hmain _, rfl, fun r c _ _ => memRead_nil _⟩

/-- An operation that replaces the frame buffer completes and changes nothing else (rule R222). -/
theorem completes_of_withFb {i : Instr} {s : State} {fb : Memory} (h : exec i s = .next (s.withFb fb)) :
    ∃ t, exec i s = .next t ∧ t = { s with fb := t.fb } ∧ t.fb = fb := ⟨s.withFb fb, h, rfl, rfl⟩

/-- Settles O35: the glyph is the one change to the picture. -/
theorem bigCharCopiesTheGlyph : Obligations.BigCharCopiesTheGlyph := by
  unfold Obligations.BigCharCopiesTheGlyph
  intro s g col hmain hwf hg hcol
  obtain ⟨t, ht, hframe, hfb⟩ := completes_of_withFb (exec_fbBigchar_withFb hmain rfl hg rfl hcol s.fb)
  refine ⟨t, ht, hframe, fun r c hr hc => ?_⟩
  rw [hfb]
  exact ((shows_self hwf).bigChar s.board g.toNat hcol).2 ⟨⟨r, hr⟩, ⟨c, hc⟩⟩

end Sys2Proof.Machine
end

section
/-! PROOF. FB.RENDER (rules R205 to R221): the clock face and the setting screen are pictures over what the frame buffer held; the
columns of the face do not overlap and the fields of the setting screen are different cells, so each cell shows one thing. -/

namespace Sys2Proof.Machine

/-! ### The clock face -/

/-- The colon's two cells differ and lie in the columns reserved for it (rules R209, R210). -/
theorem colon_of_valid {b : Config.Board} (h : b.valid = true) :
    (10 ≤ b.colonCell0.col.val ∧ b.colonCell0.col.val ≤ 9 + b.colonWidth.val)
      ∧ (10 ≤ b.colonCell1.col.val ∧ b.colonCell1.col.val ≤ 9 + b.colonWidth.val) ∧ b.colonCell0 ≠ b.colonCell1 := by
  simp only [Config.Board.valid, Config.colonOk, Bool.and_eq_true, decide_eq_true_eq, bne_iff_ne, and_assoc] at h
  obtain ⟨-, -, -, -, -, hlo0, hhi0, hlo1, hhi1, hne, -⟩ := h
  exact ⟨⟨hlo0, hhi0⟩, ⟨hlo1, hhi1⟩, hne⟩

/-- The picture with the hour over it: a leading zero is not drawn (rule R210, D22). -/
def hourOver (b : Config.Board) (t : TimeOfDay) (p : Cell → Byte) : Cell → Byte :=
  glyphOver b t.ho.toNat 5 (if t.ht = 1 then glyphOver b 1 0 p else p)

/-- The picture with the colon's two cells over it (rule R210). -/
def colonOver (b : Config.Board) (p : Cell → Byte) : Cell → Byte :=
  Function.update (Function.update p b.colonCell0 b.colonPattern0) b.colonCell1 b.colonPattern1

/-- The picture with the minutes over it, right of the colon's columns (rules R208, R210). -/
def minutesOver (b : Config.Board) (t : TimeOfDay) (p : Cell → Byte) : Cell → Byte :=
  glyphOver b t.mo.toNat (15 + b.colonWidth.val) (glyphOver b t.mt.toNat (10 + b.colonWidth.val) p)

theorem Shows.renderClock {fb : Memory} {p : Cell → Byte} (h : Shows fb p) (b : Config.Board) (t : TimeOfDay) :
    Shows (renderClock b t fb) (minutesOver b t (colonOver b (hourOver b t p))) := by
  have hwidth := b.colonWidth.isLt
  have htens : Shows (if t.ht = 1 then Machine.bigChar b 1 0 fb else fb) (if t.ht = 1 then glyphOver b 1 0 p else p) := by
    split
    · exact h.bigChar b 1 (by decide)
    · exact h
  rw [renderClock_eq]
  exact ((((htens.bigChar b _ (by decide)).paint _ _).paint _ _).bigChar b _ (by omega)).bigChar b _ (by omega)

section Columns
variable {b : Config.Board} {t : TimeOfDay} {p : Cell → Byte} {x : Cell}

theorem hourOver_of_lt (h : x.col.val < 5) :
    hourOver b t p x = if t.ht = 1 then fontByte b 1 x.row.val x.col.val else p x := by
  rw [hourOver, glyphOver_of_lt h]
  split
  · exact glyphOver_of_mem (by omega) (by omega)
  · rfl

theorem hourOver_of_mem (hlo : 5 ≤ x.col.val) (hhi : x.col.val < 10) :
    hourOver b t p x = fontByte b t.ho.toNat x.row.val (x.col.val - 5) := glyphOver_of_mem hlo (by omega)

theorem hourOver_of_ge (h : 10 ≤ x.col.val) : hourOver b t p x = p x := by
  rw [hourOver, glyphOver_of_gt (by omega)]
  split
  · exact glyphOver_of_gt (by omega)
  · rfl

/-- Outside the colon's columns is none of its cells (rule R209). -/
theorem colonOver_of_outside (hvalid : b.valid = true) (h : x.col.val < 10 ∨ 10 + b.colonWidth.val ≤ x.col.val) :
    colonOver b p x = p x := by
  obtain ⟨hcol0, hcol1, -⟩ := colon_of_valid hvalid
  have hne0 : x ≠ b.colonCell0 := by
    rintro rfl
    omega
  have hne1 : x ≠ b.colonCell1 := by
    rintro rfl
    omega
  rw [colonOver, Function.update_of_ne hne1, Function.update_of_ne hne0]

/-- The colon's two cells differ, so the order of their paints does not matter. -/
theorem colonOver_apply (hvalid : b.valid = true) : colonOver b p x =
    if x = b.colonCell0 then b.colonPattern0 else if x = b.colonCell1 then b.colonPattern1 else p x := by
  obtain ⟨-, -, hne⟩ := colon_of_valid hvalid
  rw [colonOver, Function.update_comm hne, Function.update_apply, Function.update_apply]

theorem minutesOver_of_lt (h : x.col.val < 10 + b.colonWidth.val) : minutesOver b t p x = p x := by
  rw [minutesOver, glyphOver_of_lt (by omega), glyphOver_of_lt h]

theorem minutesOver_of_ge (h : 10 + b.colonWidth.val ≤ x.col.val) : minutesOver b t p x =
    if x.col.val < 15 + b.colonWidth.val then fontByte b t.mt.toNat x.row.val (x.col.val - (10 + b.colonWidth.val))
    else if x.col.val < 20 + b.colonWidth.val then fontByte b t.mo.toNat x.row.val (x.col.val - (15 + b.colonWidth.val))
    else p x := by
  unfold minutesOver
  split
  next htens => rw [glyphOver_of_lt htens, glyphOver_of_mem h (by omega)]
  next htens =>
    split
    next hones => exact glyphOver_of_mem (by omega) (by omega)
    next hones => rw [glyphOver_of_gt (by omega), glyphOver_of_gt (by omega)]

/-- The four slots and the colon's columns do not overlap, so each cell of the face is decided by its column (rules R208 to R210). -/
theorem clockFace_apply (hvalid : b.valid = true) : minutesOver b t (colonOver b (hourOver b t p)) x =
    if x.col.val < 5 then (if t.ht = 1 then fontByte b 1 x.row.val x.col.val else p x)
    else if x.col.val < 10 then fontByte b t.ho.toNat x.row.val (x.col.val - 5)
    else if x.col.val < 10 + b.colonWidth.val then
      (if x = b.colonCell0 then b.colonPattern0 else if x = b.colonCell1 then b.colonPattern1 else p x)
    else if x.col.val < 15 + b.colonWidth.val then fontByte b t.mt.toNat x.row.val (x.col.val - (10 + b.colonWidth.val))
    else if x.col.val < 20 + b.colonWidth.val then fontByte b t.mo.toNat x.row.val (x.col.val - (15 + b.colonWidth.val))
    else p x := by
  split
  next h5 => rw [minutesOver_of_lt (by omega), colonOver_of_outside hvalid (.inl (by omega)), hourOver_of_lt h5]
  next h5 =>
    split
    next h10 => rw [minutesOver_of_lt (by omega), colonOver_of_outside hvalid (.inl h10), hourOver_of_mem (by omega) h10]
    next h10 =>
      have hhour : hourOver b t p x = p x := hourOver_of_ge (by omega)
      split
      next hcolon => rw [minutesOver_of_lt hcolon, colonOver_apply hvalid, hhour]
      next hcolon => rw [minutesOver_of_ge (by omega), colonOver_of_outside hvalid (.inr (by omega)), hhour]

end Columns

/-- Settles O36: the picture of the face is read cell by cell. -/
theorem renderClockDrawsTheFace : Obligations.RenderClockDrawsTheFace := by
  unfold Obligations.RenderClockDrawsTheFace
  intro s hmain hwf hvalid hmode hho hmo
  obtain ⟨t, ht, hframe, hfb⟩ := completes_of_withFb (exec_fbRender_of_clock hmain hmode hho hmo)
  refine ⟨t, ht, hframe, fun r c => ?_⟩
  rw [hfb]
  exact (((shows_self hwf).renderClock s.board s.time).2 ⟨r, c⟩).trans (clockFace_apply hvalid)

/-! ### The setting screen -/

theorem update_or_apply (p : Cell → Byte) (x y : Cell) (v : Byte) :
    Function.update p x (p x ||| v) y = if y = x then p y ||| v else p y := by
  rw [Function.update_apply]
  split
  next h => rw [h]
  next => rfl

theorem exec_fbRender_of_setting {s : State} (hmain : s.inHandler = false) (hmode : s.mode ≠ .clock)
    (hmo : s.scratch.mo.toNat ≤ 9) : exec .fbRender s = .next (s.withFb (renderSet s.board s.mode s.scratch s.fb)) := by
  have hdrawable : s.digitsDrawable = true := by
    cases hm : s.mode with
    | clock => exact absurd hm hmode
    | setHours | setMinutesTens | setMinutesOnes => simp [State.digitsDrawable, hm, hmo]
  have hfb : render s.board s.mode s.time s.scratch s.fb = renderSet s.board s.mode s.scratch s.fb := by
    cases hm : s.mode with
    | clock => exact absurd hm hmode
    | setHours | setMinutesTens | setMinutesOnes => rfl
  rw [exec, execFbRender, inMain_of_main hmain, if_pos hdrawable, State.fbRender, hfb, State.withFb]

theorem layout_nodup_of_valid {b : Config.Board} (h : b.valid = true) :
    [b.layout.label0, b.layout.label1, b.layout.label2, b.layout.ht, b.layout.ho, b.layout.mt, b.layout.mo].Nodup := by
  simp only [Config.Board.valid, Config.layoutOk, Bool.and_eq_true, distinct_iff_nodup, and_assoc] at h
  obtain ⟨-, -, -, -, -, -, -, -, hcells, -⟩ := h
  exact hcells

/-- The picture with label and digits of the setting screen over it (rules R215 to R219). -/
def fieldsOver (b : Config.Board) (x : Scratch) (p : Cell → Byte) : Cell → Byte :=
  let label := Function.update (Function.update (Function.update p b.layout.label0 (segByte b.labelS))
    b.layout.label1 (segByte b.labelE)) b.layout.label2 (segByte b.labelT)
  let tens := if 10 ≤ x.h.toNat then Function.update label b.layout.ht (digitByte b (x.h.toNat / 10)) else label
  Function.update (Function.update (Function.update tens b.layout.ho (digitByte b (x.h.toNat % 10) ||| 0x80))
    b.layout.mt (digitByte b x.mt.toNat)) b.layout.mo (digitByte b x.mo.toNat)

theorem Shows.renderSet {fb : Memory} {p : Cell → Byte} (h : Shows fb p) (b : Config.Board) (m : Mode) (x : Scratch) :
    Shows (renderSet b m x fb)
      (Function.update (fieldsOver b x p) (underlineCell b m) (fieldsOver b x p (underlineCell b m) ||| 0x80)) := by
  refine Shows.paintOr (.paint (.paint (.paint ?_ _ _) _ _) _ _) _ _
  have hlabel := ((h.paint b.layout.label0 (segByte b.labelS)).paint b.layout.label1 (segByte b.labelE)).paint
    b.layout.label2 (segByte b.labelT)
  split
  · exact hlabel.paint _ _
  · exact hlabel

/-- The seven cells of label and digits differ, so each is what the one paint of it left (rule R209). -/
theorem fieldsOver_apply {b : Config.Board} (h : b.valid = true) (x : Scratch) (p : Cell → Byte) (y : Cell) :
    fieldsOver b x p y =
      if y = b.layout.label0 then segByte b.labelS
      else if y = b.layout.label1 then segByte b.labelE
      else if y = b.layout.label2 then segByte b.labelT
      else if y = b.layout.ht then (if 10 ≤ x.h.toNat then digitByte b (x.h.toNat / 10) else p y)
      else if y = b.layout.ho then digitByte b (x.h.toNat % 10) ||| 0x80
      else if y = b.layout.mt then digitByte b x.mt.toNat
      else if y = b.layout.mo then digitByte b x.mo.toNat
      else p y := by
  have hcells := layout_nodup_of_valid h
  simp only [List.nodup_cons, List.mem_cons, List.not_mem_nil, not_or] at hcells
  unfold fieldsOver
  by_cases htens : 10 ≤ x.h.toNat
  · simp only [htens, if_true, Function.update_apply]
    grind only
  · simp only [htens, if_false, Function.update_apply]
    grind only

/-- Settles O37: the underline cell is or-ed into the fields last. -/
theorem renderSetDrawsTheScreen : Obligations.RenderSetDrawsTheScreen := by
  unfold Obligations.RenderSetDrawsTheScreen
  intro s ul hmain hwf hvalid hmo hmode
  have hset : s.mode ≠ .clock ∧ ul = underlineCell s.board s.mode := by
    rcases hmode with ⟨hm, hul⟩ | ⟨hm, hul⟩ | ⟨hm, hul⟩ <;> simp [hm, hul, underlineCell]
  obtain ⟨hnotClock, rfl⟩ := hset
  obtain ⟨t, ht, hframe, hfb⟩ := completes_of_withFb (exec_fbRender_of_setting hmain hnotClock hmo)
  refine ⟨t, ht, hframe, fun x => ?_⟩
  rw [hfb]
  refine (((shows_self hwf).renderSet s.board s.mode s.scratch).2 x).trans ?_
  rw [update_or_apply, fieldsOver_apply hvalid]
  rfl

end Sys2Proof.Machine
end

section
/-! PROOF. The mailbox (rules R96, R242, R243), the phases (rules R240, R245), and SEQ.DISPATCH (rules R230 to R237, R250): an arm of
the dispatch edits one field, moves the mode, or is RTC.SETTIME and RTC.GETTIME. -/

namespace Sys2Proof.Machine

/-! ### Phases -/

/-- Settles O13: each of the two operations looks at the phase first. -/
theorem outOfPhaseIsRefused : Obligations.OutOfPhaseIsRefused := by
  unfold Obligations.OutOfPhaseIsRefused
  intro s hmain
  refine ⟨fun hphase => (inMain_of_main hmain _).trans ?_, fun hphase => (inMain_of_main hmain _).trans ?_⟩
  · split
    · exact absurd ‹_› hphase
    all_goals rfl
  · split
    · exact absurd ‹_› hphase
    all_goals rfl

/-! ### Mailbox -/

theorem eventOf_isSome_of_le {c : BitVec 3} (h : c.toNat ≤ 4) : (eventOf c).isSome = true := by
  revert c
  decide

theorem withEvent_of_some {c : BitVec 3} {e : Event} (h : eventOf c = some e) (f : Event → Answer) : withEvent c f = f e := by
  rw [withEvent, h]

theorem evtPostWord_eq : ∀ c : BitVec 3, (0x50 : BitVec 8) ++ (0 : BitVec 21) ++ c = encode (.evtPost c) := by decide

theorem evtTakeWord_eq : (0x51000000 : CmdWord) = encode .evtTake := by decide

/-- Settles O38: the checks pass or refuse, and the two words are the encodings of the two operations. -/
theorem mailboxIsLastWriteWins : Obligations.MailboxIsLastWriteWins := by
  unfold Obligations.MailboxIsLastWriteWins
  refine ⟨fun s c e hhandler hc => ?_, fun s c hhandler hc => ?_, fun s c hmain => inHandlerOnly_of_main hmain _, fun s hmain => ?_,
    fun s hhandler => inMain_of_handler hhandler _, fun c hc => ?_, ⟨rfl, rfl, rfl, rfl, rfl⟩, ?_⟩
  · exact (inHandlerOnly_of_handler hhandler _).trans (withEvent_of_some hc _)
  · exact (inHandlerOnly_of_handler hhandler _).trans (withEvent_of_gt hc _)
  · rw [exec, execEvtTake, inMain_of_main hmain, State.take]
    cases s.evt <;> rfl
  · rw [evtPostWord_eq]
    exact decode_encode_of_wf (eventOf_isSome_of_le hc)
  · rw [evtTakeWord_eq]
    exact decode_encode_of_wf rfl

/-! ### Field edits -/

theorem toNat_incH : ∀ h : BitVec 4, (incH h).toNat = if 12 ≤ h.toNat then 1 else h.toNat + 1 := by decide

theorem toNat_decH : ∀ h : BitVec 4, (decH h).toNat = if h.toNat ≤ 1 then 12 else h.toNat - 1 := by decide

theorem toNat_incMt : ∀ x : BitVec 3, (incMt x).toNat = if 5 ≤ x.toNat then 0 else x.toNat + 1 := by decide

theorem toNat_decMt : ∀ x : BitVec 3, (decMt x).toNat = if x.toNat = 0 then 5 else x.toNat - 1 := by decide

theorem toNat_incMo : ∀ x : BitVec 4, (incMo x).toNat = if 9 ≤ x.toNat then 0 else x.toNat + 1 := by decide

theorem toNat_decMo : ∀ x : BitVec 4, (decMo x).toNat = if x.toNat = 0 then 9 else x.toNat - 1 := by decide

/-- Settles O42: as numbers, each of the edits goes one up or down inside its range and wraps at its ends (rule R250). -/
theorem decrementsInvertIncrements : Obligations.DecrementsInvertIncrements := by
  unfold Obligations.DecrementsInvertIncrements
  refine ⟨fun h hlo hhi => ?_, fun x hx => ?_, fun x hx => ?_⟩
  · simp only [← BitVec.toNat_inj, toNat_incH, toNat_decH]
    grind only
  · simp only [← BitVec.toNat_inj, toNat_incMt, toNat_decMt]
    grind only
  · simp only [← BitVec.toNat_inj, toNat_incMo, toNat_decMo]
    grind only

/-! ### Dispatch -/

/-- SEQ.DISPATCH is the arm of the event in the mailbox, and an empty mailbox (rule R230). -/
theorem exec_seqDispatch_eq {s : State} {e : Event} (hmain : s.inHandler = false) (hevt : s.evt = e) :
    exec .seqDispatch s = .next { s.onEvent e with evt := .none } := by
  rw [exec, execSeqDispatch, inMain_of_main hmain, State.dispatch, hevt]

/-- Emptying an empty mailbox changes nothing. -/
theorem withEvt_none {s : State} (hevt : s.evt = .none) : { s with evt := .none } = s := by
  rw [← hevt]

theorem toNat_snapshotHour {t : TimeOfDay} (h : combinedHour t < 16) : (snapshotHour t).toNat = combinedHour t := by
  rw [snapshotHour, if_pos h, BitVec.toNat_ofNat, Nat.mod_eq_of_lt h]

theorem execAll_setTime_getTime {s : State} (hmain : s.inHandler = false) :
    execAll [.rtcSettime, .rtcGettime] s = .next s.setTime.getTime := by
  have hset : s.setTime.inHandler = false := by rw [State.setTime, State.drive_inHandler, hmain]
  rw [execAll_cons_of_next (exec_rtcSettime_eq hmain), execAll_singleton, exec_rtcGettime_eq hset]

/-- Settles O39: the four modes are the four cases of the arm. -/
theorem setPressedCyclesTheModes : Obligations.SetPressedCyclesTheModes := by
  unfold Obligations.SetPressedCyclesTheModes
  intro s hmain hevt
  rw [exec_seqDispatch_eq hmain hevt, State.onEvent, State.onSet]
  refine ⟨fun hmode => ?_, fun hmode => ?_, fun hmode => ?_, fun hmode => ?_⟩
  · rw [hmode]
    exact ⟨snapshotHour s.time, rfl, toNat_snapshotHour⟩
  · rw [hmode]
  · rw [hmode]
  · rw [hmode]
    exact ⟨s.setTime.getTime, execAll_setTime_getTime hmain, rfl⟩

/-- IncPressed changes one field of SCRATCH or nothing, by the mode (rule R234). -/
theorem onInc_eq (s : State) :
    s.onInc = { s with scratch :=
      { h := if s.mode = .setHours then incH s.scratch.h else s.scratch.h
        mt := if s.mode = .setMinutesTens then incMt s.scratch.mt else s.scratch.mt
        mo := if s.mode = .setMinutesOnes then incMo s.scratch.mo else s.scratch.mo } } := by
  unfold State.onInc
  split
  next hclock => rw [if_neg (by simp [hclock]), if_neg (by simp [hclock]), if_neg (by simp [hclock])]
  all_goals simp [*]

/-- DecPressed changes the same field (rule R235). -/
theorem onDec_eq (s : State) :
    s.onDec = { s with scratch :=
      { h := if s.mode = .setHours then decH s.scratch.h else s.scratch.h
        mt := if s.mode = .setMinutesTens then decMt s.scratch.mt else s.scratch.mt
        mo := if s.mode = .setMinutesOnes then decMo s.scratch.mo else s.scratch.mo } } := by
  unfold State.onDec
  split
  next hclock => rw [if_neg (by simp [hclock]), if_neg (by simp [hclock]), if_neg (by simp [hclock])]
  all_goals simp [*]

/-- Settles O40: each field is edited in its own mode, and the edits are rule R250's table. -/
theorem incAndDecEditTheField : Obligations.IncAndDecEditTheField := by
  unfold Obligations.IncAndDecEditTheField
  intro s hmain
  refine ⟨fun hevt => ?_, fun hevt => ?_⟩
  · rw [exec_seqDispatch_eq hmain hevt, State.onEvent, onInc_eq]
    refine ⟨_, rfl, ?_, ?_, ?_⟩
    · rw [apply_ite BitVec.toNat, toNat_incH]
    · rw [apply_ite BitVec.toNat, toNat_incMt]
    · rw [apply_ite BitVec.toNat, toNat_incMo]
  · rw [exec_seqDispatch_eq hmain hevt, State.onEvent, onDec_eq]
    refine ⟨_, rfl, ?_, ?_, ?_⟩
    · rw [apply_ite BitVec.toNat, toNat_decH]
    · rw [apply_ite BitVec.toNat, toNat_decMt]
    · rw [apply_ite BitVec.toNat, toNat_decMo]

/-- Settles O41: the tick's arm is RTC.GETTIME, which edits neither MODE nor SCRATCH; without an event the arm is empty. -/
theorem tickReadsTheTimeInEveryMode : Obligations.TickReadsTheTimeInEveryMode := by
  unfold Obligations.TickReadsTheTimeInEveryMode
  intro s hmain
  refine ⟨fun hevt => ?_, fun hevt => ?_⟩
  · have hclock : WritesOnly [.clock] s s.getTime := getTime_writesOnly (by simp) s
    obtain ⟨hmode, hscratch⟩ := hclock .editing (by simp)
    exact ⟨s.getTime, exec_rtcGettime_eq hmain, exec_seqDispatch_eq hmain hevt, hscratch, hmode⟩
  · rw [exec_seqDispatch_eq hmain hevt, State.onEvent, withEvt_none hevt]

end Sys2Proof.Machine
end

section
/-! PROOF. SEQ.WAIT and SEQ.ITER (rules R240, R241, R277 to R281, R332; log 9): the hold ends if a source is pending or the timer
enabled, one handler runs for a source that is then pending, and an iteration is its render, clear, wait and dispatch. -/

namespace Sys2Proof.Machine

/-! ### The hold -/

/-- What no enabled source can set stays clear (rules R272, R273). -/
theorem LineActivity.nonePending {s t : State} (h : LineActivity s t) (hpend : s.pend = { timer := false, button := false })
    (hen : s.srcEn = { timer := false, button := false }) : t.anyPending = false := by
  obtain ⟨-, -, -, htimer, hbutton⟩ := h
  simp_all [State.anyPending]

/-- With nothing pending and nothing enabled nothing that happens ends the hold (rule R241). -/
theorem hold_of_disabled {s : State} (hpend : s.pend = { timer := false, button := false })
    (hen : s.srcEn = { timer := false, button := false }) : s.hold = none := by
  have hscript := holdScript_lineActivity s.env.script s
  have hfree := hscript.trans (arrive_lineActivity _)
  have htimer : (holdScript s.env.script s).srcEn.timer = false := by rw [hscript.1, hen]
  simp [State.hold, hscript.nonePending hpend hen, hfree.nonePending hpend hen, htimer]

/-- Settles O47: the hold of the wait has no end, and so the wait has no next state. -/
theorem waitWithoutSourcesNeverEnds : Obligations.WaitWithoutSourcesNeverEnds := by
  unfold Obligations.WaitWithoutSourcesNeverEnds
  intro s hmain hpend hen
  have hwait : s.wait = none := by rw [State.wait, hold_of_disabled (s := s.enable) hpend hen, Option.map_none]
  rw [exec, execSeqWait, inMain_of_main hmain, waitThen, hwait]

/-- The hold ends if a source is pending or the timer enabled (rule R332). -/
theorem exists_hold {s : State} (h : s.anyPending = true ∨ s.srcEn.timer = true) : ∃ u, s.hold = some u := by
  obtain hpend | htimer := h
  · exact ⟨s, hold_of_pending s hpend⟩
  · exact Option.isSome_iff_exists.1 (hold_isSome_of_timer s htimer)

/-- The hold changes latches, the environment and the chips, and no register, line or record (rule R241). -/
theorem hold_eq {s u : State} (h : s.hold = some u) :
    u = { s with pend := u.pend, env := u.env, rtcChip := u.rtcChip, displays := u.displays } := by
  obtain ⟨⟨hregisters, -⟩, -⟩ := hold_some h
  rw [hold_drv h, hold_trace h] at hregisters
  exact hregisters

/-! ### One handler -/

/-- The serviced source is a pending one (rule R277). -/
theorem serviced_pending {s : State} (h : s.anyPending = true) :
    (s.serviced = .timer ∧ s.pend.timer = true) ∨ (s.serviced = .button ∧ s.pend.button = true) := by
  cases htimer : s.pend.timer with
  | false =>
    have hbutton : s.pend.button = true := by simpa [State.anyPending, htimer] using h
    exact .inr ⟨by simp [State.serviced, htimer], hbutton⟩
  | true =>
    cases hbutton : s.pend.button with
    | false => exact .inl ⟨by simp [State.serviced, htimer, hbutton], rfl⟩
    | true =>
      cases hserved : s.serviced with
      | timer => exact .inl ⟨rfl, rfl⟩
      | button => exact .inr ⟨rfl, rfl⟩

/-- The timer handler from entry to return: one post (rules R278, R279, R281). -/
theorem service_of_timer {s : State} (h : s.serviced = .timer) :
    s.service.disable = { s with
      env := s.env.afterPick (s.pend.timer && s.pend.button), pend := { s.pend with timer := false }, evt := .timeTick,
      inHandler := false, ie := false } := by
  rw [State.service, h]
  rfl

/-- The button handler from entry to return: three reads and one post (rules R278, R280, R281). -/
theorem service_of_button {s : State} (h : s.serviced = .button) :
    s.service.disable = { s with
      trace := s.trace ++ buttonEvents (s.enterHandler .button).buttonReads
      pend := (s.enterHandler .button).afterButtons.pend, env := (s.enterHandler .button).afterButtons.env
      rtcChip := (s.enterHandler .button).afterButtons.rtcChip, displays := (s.enterHandler .button).afterButtons.displays
      evt := postedFor s.board (s.enterHandler .button).buttonReads, inHandler := false, ie := false } := by
  rw [State.service, h]
  exact buttonHandler_return_eq (s.enterHandler .button)

/-- Whichever source is serviced, its handler touches the latches, the mailbox, the record, the environment and the chips, and
interrupts are masked after it (rules R241, R281). -/
theorem service_eq (s : State) :
    s.service.disable = { s with
      pend := s.service.disable.pend, evt := s.service.disable.evt, trace := s.service.disable.trace,
      env := s.service.disable.env, rtcChip := s.service.disable.rtcChip, displays := s.service.disable.displays,
      inHandler := false, ie := false } := by
  cases h : s.serviced with
  | timer => rw [service_of_timer h]
  | button => rw [service_of_button h]

/-- What the handler of a pending source leaves: the timer's posts TimeTick, the button's reads its lines and posts what they say
(rules R279, R280). -/
theorem service_outcome {s : State} (h : s.anyPending = true) :
    (s.pend.timer = true ∧ s.service.disable.pend = { s.pend with timer := false } ∧ s.service.disable.trace = s.trace
        ∧ s.service.disable.evt = .timeTick)
      ∨ (s.pend.button = true ∧ PendGrows { s with pend := { s.pend with button := false } } s.service.disable
        ∧ ∃ lv, s.service.disable.trace = s.trace ++ buttonEvents lv ∧ s.service.disable.evt = postedFor s.board lv) := by
  obtain ⟨hserved, hpend⟩ | ⟨hserved, hpend⟩ := serviced_pending h
  · rw [service_of_timer hserved]
    exact .inl ⟨hpend, rfl, rfl, rfl⟩
  · rw [service_of_button hserved]
    exact .inr ⟨hpend, (afterButtons_lineActivity (s.enterHandler .button)).2, _, rfl, rfl⟩

/-! ### SEQ.WAIT -/

theorem wait_of_hold {s u : State} (h : s.enable.hold = some u) : s.wait = some u.service.disable := by
  rw [State.wait, h, Option.map_some]

/-- SEQ.WAIT touches the latches, the mailbox, the record, the environment and the chips; interrupts are off and the main context runs
again after it (rules R241, R281). -/
theorem wait_eq {s t : State} (hmain : s.inHandler = false) (h : s.wait = some t) :
    t = { s with
      pend := t.pend, evt := t.evt, trace := t.trace, env := t.env, rtcChip := t.rtcChip, displays := t.displays,
      ie := false } := by
  obtain ⟨u, hu, rfl⟩ := Option.map_eq_some_iff.1 h
  have hhold := hold_eq hu
  have hservice := service_eq u
  generalize u.service.disable = t at hservice
  rw [hhold] at hservice
  rw [hmain]
  exact hservice

/-- SEQ.WAIT completes if a source is pending or the timer enabled (rule R332). -/
theorem exists_wait {s : State} (h : s.anyPending = true ∨ s.srcEn.timer = true) : ∃ t, s.wait = some t := by
  obtain ⟨u, hu⟩ : ∃ u, s.enable.hold = some u := exists_hold h
  exact ⟨_, wait_of_hold hu⟩

/-- Settles O46: the hold ends with a source pending, and then one handler runs. -/
theorem waitRunsExactlyOneHandler : Obligations.WaitRunsExactlyOneHandler := by
  unfold Obligations.WaitRunsExactlyOneHandler
  intro s hmain hsource
  obtain ⟨u, hu⟩ : ∃ u, s.enable.hold = some u := exists_hold hsource
  obtain ⟨hactive, hpending⟩ := hold_some hu
  have htrace : u.trace = s.trace := (hold_trace hu).trans s.enable_trace
  have hboard : u.board = s.board := hactive.board_eq
  have hframe := wait_eq hmain (wait_of_hold hu)
  have houtcome := service_outcome hpending
  rw [htrace, hboard] at houtcome
  refine ⟨u, u.service.disable, hu, hpending, hold_eq hu, hactive.2, fun hp => ?_, ?_, hframe, houtcome⟩
  · have hempty := hold_of_pending s.enable hp
    rw [hu] at hempty
    exact Option.some.inj hempty
  · exact (inMain_of_main hmain _).trans (waitThen_of_some (wait_of_hold hu) id)

/-! ### SEQ.ITER -/

theorem wantsRender_iff (s : State) : s.wantsRender = true ↔ s.mode ≠ .clock ∨ s.redraw = true := by simp [State.wantsRender]

/-- The state in which an iteration clears the frame buffer: rendered and presented if it asks for that (rule R240). -/
def State.drawn (s : State) : State := if s.wantsRender then s.renderAndPresent else s

/-- An iteration that draws what is in range and whose wait ends completes with its dispatch (rule R240). -/
theorem exec_seqIter_of_wait {s c : State} (hmain : s.inHandler = false) (hphase : s.seqPhase = .render)
    (hdrawable : s.wantsRender = true → s.digitsDrawable = true) (hwait : (s.drawn.fbClear.toPhase .wait).wait = some c) :
    exec .seqIter s = .next c.dispatchPhase := by
  have hinRange : ¬ (s.wantsRender && !s.digitsDrawable) = true := by
    cases hwants : s.wantsRender <;> simp_all
  rw [exec, execSeqIter, inMain_of_main hmain, hphase, iterate, if_neg hinRange]
  exact waitThen_of_some hwait _

/-- The render and the present of an iteration are the two operations (rule R240). -/
theorem execAll_render_present {s : State} (hmain : s.inHandler = false) (hdrawable : s.digitsDrawable = true) :
    execAll [.fbRender, .ddPresent] s = .next s.fbRender.ddPresent := by
  have hrender : exec .fbRender s = .next s.fbRender := by
    rw [exec, execFbRender, inMain_of_main hmain, if_pos hdrawable]
  rw [execAll_cons_of_next hrender, execAll_singleton]
  exact inMain_of_main (s := s.fbRender) hmain _

/-- REDRAW is cleared after a present only under REDRAW_CLEAR (rule R240). -/
theorem clearRedraw_eq (s : State) : s.clearRedraw = { s with redraw := if s.board.redrawClear then false else s.redraw } := by
  rw [State.clearRedraw]
  cases s.board.redrawClear <;> simp

/-- What comes back from another phase to its own is unchanged. -/
theorem toPhase_toPhase_of_seqPhase {s : State} {p : Phase} (h : s.seqPhase = p) (q : Phase) : (s.toPhase q).toPhase p = s := by
  rw [← h]
  rfl

theorem dispatch_frame (s : State) : WritesOnly [.editing, .clock] s s.dispatch := dispatch_writesOnly (by simp) (by simp) s

/-- The dispatch of an iteration is SEQ.DISPATCH in phase DISPATCH (rule R240). -/
theorem exec_seqDispatch_dispatchPhase {s : State} (hmain : s.inHandler = false) :
    exec .seqDispatch (s.toPhase .dispatch) = .next (s.dispatchPhase.toPhase .dispatch) := by
  have hphase : (s.toPhase .dispatch).dispatch.seqPhase = .dispatch := dispatch_frame (s.toPhase .dispatch) .phase (by simp)
  rw [State.dispatchPhase, toPhase_toPhase_of_seqPhase hphase]
  exact inMain_of_main (s := s.toPhase .dispatch) hmain _

/-- Settles O48: the parts of the iteration are the operations, and what the wait leaves the dispatch keeps. -/
theorem iterationIsTheRulesSequence : Obligations.IterationIsTheRulesSequence := by
  unfold Obligations.IterationIsTheRulesSequence
  intro s hmain hphase hsource hdrawable
  simp only [← wantsRender_iff] at hdrawable ⊢
  have hdrawn : s.drawn.inHandler = false ∧ (s.drawn.anyPending = true ∨ s.drawn.srcEn.timer = true) := by
    unfold State.drawn
    split <;> exact ⟨hmain, hsource⟩
  obtain ⟨hdrawnMain, hdrawnSource⟩ := hdrawn
  obtain ⟨c, hc⟩ : ∃ c, (s.drawn.fbClear.toPhase .wait).wait = some c := exists_wait hdrawnSource
  have hwait := wait_eq (s := s.drawn.fbClear.toPhase .wait) hdrawnMain hc
  have hcMain : c.inHandler = false := by rw [hwait]; exact hdrawnMain
  have hcMasked : c.ie = false := by rw [hwait]
  have hcFb : c.fb = [] := by rw [hwait]; rfl
  have hkeeps := dispatch_frame (c.toPhase .dispatch)
  obtain ⟨hmasked, hout⟩ := hkeeps .context (by simp)
  have hfb : c.dispatchPhase.fb = c.fb := hkeeps .frame (by simp)
  refine ⟨s.drawn, s.drawn.fbClear, c, c.dispatchPhase, exec_seqIter_of_wait hmain hphase hdrawable hc, ?_,
    inMain_of_main hdrawnMain _, ?_, exec_seqDispatch_dispatchPhase hcMain, rfl, rfl, hmasked hcMasked, hout hcMain, fun r k _ _ => ?_⟩
  · unfold State.drawn
    split
    next hwants => exact ⟨_, execAll_render_present hmain (hdrawable hwants), clearRedraw_eq _⟩
    next => rfl
  · exact (inMain_of_main (s := s.drawn.fbClear.toPhase .wait) hdrawnMain _).trans (waitThen_of_some hc id)
  · rw [hfb, hcFb, memRead_nil]

/-! ### An iteration without an event -/

/-- A batch without events before a read changes nothing but the script (log 4). -/
theorem afterRead_of_quiet {s : State} {l : Line} {rest : List (List EnvEvent)} (hz : lineGet s.drv l = .z)
    (hs : s.env.script = [] :: rest) :
    (s.afterRead l).env = { s.env with script := rest } ∧ (s.afterRead l).pend = s.pend
      ∧ (s.afterRead l).rtcChip = s.rtcChip ∧ (s.afterRead l).displays = s.displays := by
  simp [State.afterRead, beforeRead_of_released s l hz, arrive_of_script hs, absorb_nil]

section
variable {s : State} {rest : List (List EnvEvent)} (hz : ∀ b, lineGet s.drv (.btn b) = .z)
  (hs : s.env.script = [] :: [] :: [] :: rest)
include hz hs

theorem afterButtons_of_quiet :
    s.afterButtons.env = { s.env with script := rest } ∧ s.afterButtons.pend = s.pend ∧ s.afterButtons.rtcChip = s.rtcChip
      ∧ s.afterButtons.displays = s.displays := by
  obtain ⟨hset, hset'⟩ := afterRead_of_quiet (hz .set) hs
  have hinc := afterRead_of_quiet (s := s.afterRead (.btn .set)) (l := .btn .inc) (by simpa using hz .inc) (by rw [hset])
  obtain ⟨hinc, hinc'⟩ := hinc
  have hdec := afterRead_of_quiet (s := (s.afterRead (.btn .set)).afterRead (.btn .inc)) (l := .btn .dec)
    (by simpa using hz .dec) (by rw [hinc])
  simp [State.afterButtons, hdec, hinc, hinc', hset, hset']

/-- Nothing held low and nothing happening, every button line reads 1 (rules R14, R280). -/
theorem buttonReads_of_quiet (hheld : ∀ b, lineGet s.env.held (.btn b) = false) : s.buttonReads = fun _ => true := by
  obtain ⟨hset, hinc, hdec, -⟩ := buttonReads_of_script hz hs
  funext b
  cases b <;> simp_all

end

/-- Where no button line reads low the handler posts None (rule R280). -/
theorem postedFor_of_all_high (b : Config.Board) : postedFor b (fun _ => true) = .none := by simp [postedFor]

/-- A wait for the button with no button low and nothing happening: three reads of 1 and no event. -/
theorem wait_of_quiet {s : State} {rest : List (List EnvEvent)} (hmain : s.inHandler = false)
    (hp : s.pend = { timer := false, button := true }) (hz : ∀ b, lineGet s.drv (.btn b) = .z)
    (hheld : ∀ b, lineGet s.env.held (.btn b) = false) (hs : s.env.script = [] :: [] :: [] :: rest) :
    s.wait = some { s with
      trace := s.trace ++ buttonEvents (fun _ => true), pend := { timer := false, button := false }
      env := { s.env with script := rest }, evt := .none, ie := false } := by
  obtain ⟨henv, hpend, hrtc, hdisplays⟩ := afterButtons_of_quiet (s := s.atButtonHandler) hz hs
  rw [wait_of_buttonPending hmain hp, buttonReads_of_quiet (s := s.atButtonHandler) hz hs hheld, henv, hpend, hrtc, hdisplays,
    postedFor_of_all_high]
  rfl

/-- An iteration's dispatch without an event is the return to phase RENDER (rules R237, R240). -/
theorem dispatchPhase_of_none {s : State} (h : s.evt = .none) : s.dispatchPhase = s.toPhase .render := by
  rw [State.dispatchPhase, State.dispatch, State.toPhase_evt, h, State.onEvent, ← h]
  rfl

/-- Settles O49: nothing is rendered, the wait posts no event, and so the dispatch does nothing. -/
theorem iterationWithNoEventRendersNothing : Obligations.IterationWithNoEventRendersNothing := by
  unfold Obligations.IterationWithNoEventRendersNothing
  intro s rest hmain hphase hmode hredraw hp hz hheld hs
  have hidle : s.wantsRender = false := by simp [State.wantsRender, hmode, hredraw]
  have hdrawn : s.drawn = s := by simp [State.drawn, hidle]
  have hwait := wait_of_quiet (s := s.fbClear.toPhase .wait) hmain hp hz hheld hs
  rw [exec_seqIter_of_wait hmain hphase (by simp [hidle]) (by rw [hdrawn]; exact hwait), dispatchPhase_of_none rfl, ← hphase]
  rfl

end Sys2Proof.Machine
end

section
/-! PROOF. SEQ.SELFTEST and SEQ.BOOT (rules R245, R246, R311): the diagnostic lights the bits in the order of their number and presents
after each; the boot is the port initialisation and then its operations in sequence. -/

namespace Sys2Proof.Machine

/-! ### The order of the diagnostic -/

/-- Blocks of `n` after one another count through `m * n`. -/
theorem flatMap_range_range {α : Type} (g : Nat → List α) (m n : Nat) :
    ((List.range m).flatMap fun i => (List.range n).flatMap fun j => g (n * i + j)) = (List.range (m * n)).flatMap g := by
  induction m with
  | zero => simp
  | succ m ih =>
    rw [List.range_succ, List.flatMap_append, ih, Nat.succ_mul, List.range_add, List.flatMap_append, List.flatMap_singleton,
      List.flatMap_map, Nat.mul_comm m n]

/-- The cell address and the bit lit as number `n` of the diagnostic (rule R246). -/
def litAt (n : Nat) : Nat × Nat := (n / 8, n % 8)

/-- The 1152 bits come in the order of their number. -/
theorem selfTestOrder_eq : selfTestOrder = (List.range 1152).map litAt := by
  have hcell (a : Nat) : ((List.range 8).map fun b => (a, b)) = (List.range 8).flatMap fun b => [litAt (8 * a + b)] := by
    rw [List.map_eq_flatMap]
    refine List.flatMap_congr fun b hb => ?_
    have hb := List.mem_range.1 hb
    rw [litAt, show (8 * a + b) / 8 = a by omega, show (8 * a + b) % 8 = b by omega]
  simp only [selfTestOrder, fbAddr, hcell]
  rw [flatMap_range_range (fun a => (List.range 8).flatMap fun b => [litAt (8 * a + b)]), flatMap_range_range (fun n => [litAt n]),
    List.map_eq_flatMap]

/-! ### Lit bits -/

/-- Cell `a` is fully lit after `8 * a + 8` bits and holds the low bits lit so far before that. -/
theorem litBits_eq (n a : Nat) : litBits n a = BitVec.ofNat 8 (2 ^ min 8 (n - 8 * a) - 1) := by
  unfold litBits
  split
  next h => rw [show min 8 (n - 8 * a) = 8 by omega]; rfl
  next h =>
    split
    next ha => rw [show min 8 (n - 8 * a) = n % 8 by omega]
    next ha => rw [show min 8 (n - 8 * a) = 0 by omega]; rfl

@[simp] theorem litBits_zero (a : Nat) : litBits 0 a = 0 := by simp [litBits_eq]

theorem lowOnes_succ : ∀ r < 8, BitVec.ofNat 8 (2 ^ r - 1) ||| 1#8 <<< r = BitVec.ofNat 8 (2 ^ (r + 1) - 1) := by decide

/-- Lighting bit number `n` changes its own cell only. -/
theorem litBits_succ (n a : Nat) :
    litBits (n + 1) a = if a = (litAt n).1 then litBits n a ||| 1#8 <<< (litAt n).2 else litBits n a := by
  simp only [litBits_eq, litAt]
  split
  next h =>
    have hr : n % 8 < 8 := Nat.mod_lt n (by decide)
    rw [show min 8 (n - 8 * a) = n % 8 by omega, show min 8 (n + 1 - 8 * a) = n % 8 + 1 by omega, lowOnes_succ _ hr]
  next h => rw [show min 8 (n + 1 - 8 * a) = min 8 (n - 8 * a) by omega]

/-! ### SEQ.SELFTEST -/

/-- From `s` to `t` nothing has changed but the frame buffer, and the lines by writes. -/
def Presents (s t : State) : Prop := OnlyDrives { s with fb := t.fb } t

theorem Presents.trans {s t u : State} (h1 : Presents s t) (h2 : Presents t u) : Presents s u := by
  unfold Presents OnlyDrives at *
  rw [h1] at h2
  exact h2

/-- A present of another frame buffer. -/
theorem withFb_ddPresent_presents (s : State) (fb : Memory) : Presents s (s.withFb fb).ddPresent :=
  drive_onlyDrives (s.withFb fb) (presentWrites s.board fb)

theorem lightBit_presents (s : State) (x : Nat × Nat) : Presents s (s.lightBit x) := withFb_ddPresent_presents s _

theorem foldl_lightBit_presents (xs : List (Nat × Nat)) (s : State) : Presents s (xs.foldl State.lightBit s) := by
  induction xs generalizing s with
  | nil => rfl
  | cons x xs ih => exact (lightBit_presents s x).trans (ih _)

theorem selfTest_presents (s : State) : Presents s s.selfTest :=
  (foldl_lightBit_presents selfTestOrder s).trans (withFb_ddPresent_presents _ [])

theorem ddPresent_trace (s : State) : s.ddPresent.trace = s.trace ++ presentEvents s.board (memRead s.fb) := by
  rw [State.ddPresent, State.drive_trace, wroteAll_presentWrites]

/-- The state after the first `n` bits of the diagnostic. -/
def State.litFirst (s : State) (n : Nat) : State := ((List.range n).map litAt).foldl State.lightBit s

theorem litFirst_succ (s : State) (n : Nat) : s.litFirst (n + 1) = (s.litFirst n).lightBit (litAt n) := by
  simp [State.litFirst, List.range_succ]

theorem litFirst_board (s : State) (n : Nat) : (s.litFirst n).board = s.board := by
  have h : Presents s (s.litFirst n) := foldl_lightBit_presents _ s
  rw [h]

/-- After `n` bits of the diagnostic exactly the first `n` are lit in addition to what was, bits already lit stay lit (rule R246). -/
theorem litFirst_shows {s : State} (hwf : memWf s.fb = true) (n : Nat) :
    memWf (s.litFirst n).fb = true ∧ ∀ a, memRead (s.litFirst n).fb a = memRead s.fb a ||| litBits n a := by
  induction n with
  | zero => exact ⟨hwf, fun a => by simp [State.litFirst]⟩
  | succ n ih =>
    obtain ⟨hwf', hread⟩ := ih
    rw [litFirst_succ]
    refine ⟨memWf_memWrite _ _ _ hwf', fun a => ?_⟩
    have hwrite := memRead_memWrite _ (litAt n).1 (memRead (s.litFirst n).fb (litAt n).1 ||| 1#8 <<< (litAt n).2) a hwf'
    refine hwrite.trans ?_
    rw [litBits_succ]
    split
    next h => rw [← h, hread, BitVec.or_assoc]
    next h => exact hread a

/-- Each bit of the diagnostic is one present of what is lit then. -/
theorem litFirst_trace {s : State} (hwf : memWf s.fb = true) (n : Nat) :
    (s.litFirst n).trace
      = s.trace ++ (List.range n).flatMap fun m => presentEvents s.board fun a => memRead s.fb a ||| litBits (m + 1) a := by
  induction n with
  | zero => simp [State.litFirst]
  | succ n ih =>
    have hlit : memRead (s.litFirst (n + 1)).fb = fun a => memRead s.fb a ||| litBits (n + 1) a :=
      funext (litFirst_shows hwf (n + 1)).2
    rw [litFirst_succ] at hlit ⊢
    have hpresent := ddPresent_trace { s.litFirst n with fb := ((s.litFirst n).lightBit (litAt n)).fb }
    rw [hlit, litFirst_board] at hpresent
    refine hpresent.trans ?_
    rw [ih, List.range_succ, List.flatMap_append, List.flatMap_singleton, List.append_assoc]

theorem selfTest_eq (s : State) : s.selfTest = (s.litFirst 1152).fbClear.ddPresent := by
  rw [State.selfTest, selfTestOrder_eq, State.litFirst]

/-- Settles O52: 1152 bits are lit and presented one by one, and then the cleared buffer. -/
theorem selfTestLightsEveryBit : Obligations.SelfTestLightsEveryBit := by
  unfold Obligations.SelfTestLightsEveryBit
  intro s hmain hwf
  refine ⟨s.selfTest, inMain_of_main hmain _, selfTest_presents s, rfl, ?_⟩
  have hblank : memRead [] = fun _ => 0 := rfl
  rw [selfTest_eq, ddPresent_trace, State.fbClear_trace, State.fbClear_board, State.fbClear_fb, litFirst_trace hwf, litFirst_board,
    hblank]

/-! ### SEQ.BOOT -/

/-- SEQ.BOOT up to the choice of the diagnostic, the button's level in RES (rule R245). -/
def State.bootRead (s : State) : State := s.bootChips.pinRead (.btn s.board.selfTestBtn)

/-- IE and the mailbox are as they were (rules R25, R33). -/
def KeepsMaskAndMail (s t : State) : Prop := t.ie = s.ie ∧ t.evt = s.evt

theorem KeepsMaskAndMail.trans {s t u : State} (h1 : KeepsMaskAndMail s t) (h2 : KeepsMaskAndMail t u) : KeepsMaskAndMail s u :=
  ⟨h2.1.trans h1.1, h2.2.trans h1.2⟩

theorem LineActivity.keepsMaskAndMail {s t : State} (h : LineActivity s t) : KeepsMaskAndMail s t :=
  ⟨by rw [h.1], by rw [h.1]⟩

theorem Presents.keepsMaskAndMail {s t : State} (h : Presents s t) : KeepsMaskAndMail s t :=
  h.lineActivity.keepsMaskAndMail

theorem getTime_keepsMaskAndMail (s : State) : KeepsMaskAndMail s s.getTime :=
  ((getTransfer_lineActivity s).settle (decodeTime s.rxMinutes.res s.rxHours.res)).keepsMaskAndMail

theorem rx_keepsMaskAndMail (s : State) (ack : Bool) : KeepsMaskAndMail s (s.rx ack) := (rx_lineActivity s ack).keepsMaskAndMail

theorem drive_keepsMaskAndMail (s : State) (ws : List (Line × Drive)) : KeepsMaskAndMail s (s.drive ws) :=
  ⟨s.drive_ie ws, s.drive_evt ws⟩

theorem startClock_keepsMaskAndMail (s : State) : KeepsMaskAndMail s s.startClock := by
  unfold State.startClock
  split
  · exact drive_keepsMaskAndMail s _
  · exact ⟨rfl, rfl⟩

theorem rtcInit_keepsMaskAndMail (s : State) : KeepsMaskAndMail s s.rtcInit := by
  have hseconds : KeepsMaskAndMail s s.readSeconds :=
    ((drive_keepsMaskAndMail s _).trans (rx_keepsMaskAndMail _ false)).trans (drive_keepsMaskAndMail _ _)
  exact (hseconds.trans (startClock_keepsMaskAndMail _)).trans (getTime_keepsMaskAndMail _)

theorem boot_keepsMaskAndMail (s : State) : KeepsMaskAndMail s s.boot := by
  have hports : KeepsMaskAndMail s s.bootPorts := ⟨rfl, rfl⟩
  have hchips : KeepsMaskAndMail s s.bootChips :=
    ((hports.trans (rtcInit_keepsMaskAndMail _)).trans (drive_keepsMaskAndMail _ _)).trans (drive_keepsMaskAndMail _ _)
  have hread : KeepsMaskAndMail s s.bootRead := hchips.trans (afterRead_lineActivity s.bootChips _).keepsMaskAndMail
  have hdiagnostic (t : State) : KeepsMaskAndMail t (if t.res = 0 then t.selfTest else t) := by
    split
    · exact (selfTest_presents t).keepsMaskAndMail
    · exact ⟨rfl, rfl⟩
  exact hread.trans (hdiagnostic _)

theorem exec_seqBoot_eq {s : State} (hmain : s.inHandler = false) (hphase : s.seqPhase = .boot) : exec .seqBoot s = .next s.boot := by
  rw [exec, execSeqBoot, inMain_of_main hmain, hphase]

/-- Settles O51: the port initialisation idles every line, and no part of the boot writes MODE, SCRATCH, IE or the mailbox. -/
theorem bootPutsEveryLineIdle : Obligations.BootPutsEveryLineIdle := by
  unfold Obligations.BootPutsEveryLineIdle
  intro s hmain hphase
  have hafter : WritesOnly [.clock, .frame, .phase] s s.boot :=
    (bootPorts_writesOnly s).trans (boot_writesOnly_bootPorts (by simp) (by simp) (by simp) s)
  obtain ⟨hmode, hscratch⟩ := hafter .editing (by simp)
  obtain ⟨hie, hevt⟩ := boot_keepsMaskAndMail s
  exact ⟨s.boot, exec_seqBoot_eq hmain hphase, boot_linesIdle s, rfl, hmode, hscratch, hie, hevt⟩

/-- From idle lines the port initialisation writes nothing (rule R245; log 11). -/
theorem bootPorts_of_linesIdle {s : State} (h : LinesIdle s) : s.bootPorts = { s with srcEn := { timer := true, button := true } } := by
  have hnone : portInitWrites s.drv = [] := by simp [portInitWrites, h _]
  rw [State.bootPorts, hnone, State.drive_nil]

/-- What follows the port initialisation, up to the read of the self-test button, is four operations (rule R245). -/
theorem execAll_bootChips {s : State} (hmain : s.inHandler = false) (x : Button) :
    execAll [.rtcInit, .ddPresent, .ddAllon, .pinRead (lineId (.btn x))] s
      = .next (s.rtcInit.ddPresent.ddAllOn.pinRead (.btn x)) := by
  have hclock : WritesOnly [.clock] s s.rtcInit := rtcInit_writesOnly (by simp) s
  obtain ⟨-, hstays⟩ := hclock .context (by simp)
  have hinit : s.rtcInit.inHandler = false := hstays hmain
  have hpresent : s.rtcInit.ddPresent.inHandler = false := by rw [State.ddPresent, State.drive_inHandler, hinit]
  have hallOn : s.rtcInit.ddPresent.ddAllOn.inHandler = false := by rw [State.ddAllOn, State.drive_inHandler, hpresent]
  have hexecInit : exec .rtcInit s = .next s.rtcInit := inMain_of_main hmain _
  have hexecPresent : exec .ddPresent s.rtcInit = .next s.rtcInit.ddPresent := inMain_of_main hinit _
  have hexecAllOn : exec .ddAllon s.rtcInit.ddPresent = .next s.rtcInit.ddPresent.ddAllOn := inMain_of_main hpresent _
  rw [execAll_cons_of_next hexecInit, execAll_cons_of_next hexecPresent, execAll_cons_of_next hexecAllOn, execAll_singleton,
    exec_pinRead_eq hallOn (lineOfId_lineId _)]

theorem bootRead_writesOnly (s : State) : WritesOnly [.clock] s s.bootRead :=
  (((bootPorts_writesOnly s).trans (rtcInit_writesOnly (by simp) _)).trans (ddPresent_writesOnly _)).trans
    ((ddAllOn_writesOnly _).trans (pinRead_writesOnly _ _))

/-- SEQ.BOOT but for its last step, the change of phase, is the diagnostic if the button read low and nothing else (rule R245). -/
theorem boot_toPhase_boot {s : State} (hphase : s.seqPhase = .boot) :
    s.boot.toPhase .boot = if s.bootRead.res = 0 then s.bootRead.selfTest else s.bootRead := by
  have hkeeps : s.bootRead.seqPhase = s.seqPhase := bootRead_writesOnly s .phase (by simp)
  have hread : s.bootRead.seqPhase = .boot := hkeeps.trans hphase
  have htested : s.bootRead.selfTest.seqPhase = .boot := by rw [selfTest_presents s.bootRead, ← hread]
  refine toPhase_toPhase_of_seqPhase ?_ .render
  split
  · exact htested
  · exact hread

/-- Settles O50: from idle lines the boot is its operations, and the diagnostic if the button reads low. -/
theorem bootFromIdleLinesIsItsSequence : Obligations.BootFromIdleLinesIsItsSequence := by
  unfold Obligations.BootFromIdleLinesIsItsSequence
  intro s hmain hphase hidle
  obtain ⟨-, hstays⟩ := bootRead_writesOnly s .context (by simp)
  have hread : s.bootRead.inHandler = false := hstays hmain
  have hlast := boot_toPhase_boot hphase
  rw [← bootPorts_of_linesIdle hidle]
  refine ⟨s.bootRead, s.boot, execAll_bootChips (s := s.bootPorts) hmain s.board.selfTestBtn, exec_seqBoot_eq hmain hphase, ?_, rfl,
    boot_srcEn s⟩
  split
  next hlow =>
    rw [if_pos hlow] at hlast
    exact (inMain_of_main hread _).trans (congrArg Host.Outcome.next hlast.symm)
  next hhigh =>
    rw [if_neg hhigh] at hlast
    exact hlast

end Sys2Proof.Machine
end

section
/-! PROOF. SEQ.WAIT with a source pending at entry (rules R241, R277, R279, R281; log 6): the hold is empty, so what it does is one
handler, the timer's alone or one of the two. -/

namespace Sys2Proof.Machine

/-! ### A source pending at entry -/

/-- SEQ.WAIT with a source pending at entry: the hold is empty and one handler runs at once (rule R241). -/
theorem exec_seqWait_of_pending {s : State} (hmain : s.inHandler = false) (h : s.anyPending = true) :
    exec .seqWait s = .next s.enable.service.disable :=
  (inMain_of_main hmain _).trans (waitThen_of_some (wait_of_hold (hold_of_pending s.enable h)) id)

/-- Settles O43: the hold is empty, one source is pending and so no choice is used up, and the timer's handler is one post. -/
theorem waitServicesThePendingTimer : Obligations.WaitServicesThePendingTimer := by
  unfold Obligations.WaitServicesThePendingTimer
  intro s hmain hp
  have hany : s.anyPending = true := by simp [State.anyPending, hp]
  have hserved : s.enable.serviced = .timer := by simp [State.serviced, hp]
  rw [exec_seqWait_of_pending hmain hany, service_of_timer hserved]
  simp [State.enable, Env.afterPick, hp, hmain]

/-! ### Both sources pending -/

/-- With both sources pending a scripted choice is the one serviced (rule R277, log 6). -/
theorem serviced_of_pick {s : State} {src : Source} {rest : List Source} (hp : s.pend = { timer := true, button := true })
    (hpick : s.env.picks = src :: rest) : s.serviced = src := by
  simp [State.serviced, hp, hpick]

/-- Settles O45: the hold is empty and one of the two handlers runs, the scripted one if there is one; neither handler clears the
other source's latch. -/
theorem waitServicesEitherOfTwo : Obligations.WaitServicesEitherOfTwo := by
  unfold Obligations.WaitServicesEitherOfTwo
  intro s hmain hp
  have hany : s.anyPending = true := by simp [State.anyPending, hp]
  have hpicked {src : Source} {rest : List Source} : s.env.picks = src :: rest → s.enable.serviced = src :=
    serviced_of_pick (s := s.enable) hp
  rw [exec_seqWait_of_pending hmain hany]
  cases hserved : s.enable.serviced with
  | timer =>
    rw [service_of_timer hserved]
    have hbutton : s.enable.pend.button = true := by simp [hp]
    refine ⟨_, fun _ => true, rfl, .inl ⟨by simp [hp], rfl, rfl⟩, fun rest _ => ⟨rfl, hbutton⟩, fun rest hpick => ?_⟩
    cases hserved.symm.trans (hpicked hpick)
  | button =>
    rw [service_of_button hserved]
    obtain ⟨-, hkept, -⟩ := afterButtons_lineActivity (s.enable.enterHandler .button)
    have htimer : (s.enable.enterHandler .button).afterButtons.pend.timer = true := hkept (by simp [State.enterHandler, hp])
    refine ⟨_, _, rfl, .inr ⟨htimer, rfl, rfl⟩, fun rest hpick => ?_, fun rest _ => ⟨rfl, htimer⟩⟩
    cases hserved.symm.trans (hpicked hpick)

end Sys2Proof.Machine
end

section
/-! PROOF. The sequencer goes on for ever (rules R213, R219, R312, R332; log 9): in a state of the invariant the digits have their table
entries, so no render is refused, and the timer is enabled, so every wait ends; neither the boot nor an iteration touches the port. -/

namespace Sys2Proof.Machine

/-! ### The command port -/

theorem LineActivity.port_eq {s t : State} (h : LineActivity s t) : t.port = s.port := by rw [h.1]

@[simp] theorem State.getTime_port (s : State) : s.getTime.port = s.port :=
  ((getTransfer_lineActivity s).settle (decodeTime s.rxMinutes.res s.rxHours.res)).port_eq

@[simp] theorem State.setTime_port (s : State) : s.setTime.port = s.port := s.drive_port _

@[simp] theorem State.rx_port (s : State) (ack : Bool) : (s.rx ack).port = s.port := (rx_lineActivity s ack).port_eq

@[simp] theorem State.readSeconds_port (s : State) : s.readSeconds.port = s.port := by
  simp only [State.readSeconds, State.drive_port, State.rx_port]

@[simp] theorem State.startClock_port (s : State) : s.startClock.port = s.port := by
  unfold State.startClock
  split
  · exact s.drive_port _
  · rfl

@[simp] theorem State.rtcInit_port (s : State) : s.rtcInit.port = s.port := by simp [State.rtcInit]

@[simp] theorem State.selfTest_port (s : State) : s.selfTest.port = s.port := (selfTest_presents s).lineActivity.port_eq

theorem State.bootRead_port (s : State) : s.bootRead.port = s.port := by
  have hports : s.bootPorts.port = s.port := s.drive_port (portInitWrites s.drv)
  rw [State.bootRead, State.pinRead_port, State.bootChips, State.ddAllOn, State.drive_port, State.ddPresent, State.drive_port,
    State.rtcInit_port, hports]

theorem State.boot_port (s : State) : s.boot.port = s.port := by
  have hdiagnostic (t : State) : (if t.res = 0 then t.selfTest else t).port = t.port := by
    split
    · exact t.selfTest_port
    · rfl
  exact (hdiagnostic s.bootRead).trans s.bootRead_port

theorem State.commit_port (s : State) : s.commit.port = s.port := s.setTime.getTime_port.trans s.setTime_port

theorem State.onSet_port (s : State) : s.onSet.port = s.port := by
  unfold State.onSet
  split
  · rfl
  · rfl
  · rfl
  · exact s.commit_port

theorem State.onEvent_port (s : State) (e : Event) : (s.onEvent e).port = s.port := by
  cases e with
  | setPressed => exact s.onSet_port
  | incPressed => rw [State.onEvent, onInc_eq]
  | decPressed => rw [State.onEvent, onDec_eq]
  | timeTick => exact s.getTime_port
  | none => rfl

theorem State.dispatchPhase_port (s : State) : s.dispatchPhase.port = s.port := (s.toPhase .dispatch).onEvent_port s.evt

/-! ### Boot and iterations complete -/

theorem digits_of_timeOk {t : TimeOfDay} (h : timeOk t) : t.ho.toNat ≤ 9 ∧ t.mo.toNat ≤ 9 := by
  obtain hvalid | rfl := h
  · obtain ⟨-, hmo, hho, -, -⟩ := (validTime_iff t).1 hvalid
    exact ⟨hho, hmo⟩
  · simp

/-- In a state of the invariant a render finds every digit in its table (rules R213, R219). -/
theorem State.Inv.digitsDrawable {s : State} (hs : s.Inv) : s.digitsDrawable = true := by
  obtain ⟨hho, hmo⟩ := digits_of_timeOk hs.time
  obtain ⟨-, hedited⟩ := hs.scratch
  unfold State.digitsDrawable
  split
  · simp [hho, hmo]
  all_goals simp [hedited]

theorem State.drawn_writesOnly (s : State) : WritesOnly [.frame, .clock] s s.drawn := by
  unfold State.drawn
  split
  · exact renderAndPresent_writesOnly (by simp) (by simp) s
  · exact .refl s

theorem State.drawn_port (s : State) : s.drawn.port = s.port := by
  unfold State.drawn
  split <;> rfl

/-- With the timer enabled an iteration from the top is over after its wait and dispatch (rules R240, R332; log 9). -/
theorem State.Inv.exec_seqIter_completes {s : State} (hs : s.Inv) (hrender : s.seqPhase = .render)
    (hen : s.srcEn = { timer := true, button := true }) :
    ∃ t, exec .seqIter s = .next t ∧ t.port = s.port ∧ t.seqPhase = .render := by
  have htimer : s.drawn.srcEn.timer = true := (s.drawn_writesOnly .enables (by simp)).1 (by rw [hen])
  have hmain : s.drawn.inHandler = false := (s.drawn_writesOnly .context (by simp)).2 hs.main
  obtain ⟨c, hc⟩ : ∃ c, (s.drawn.fbClear.toPhase .wait).wait = some c := exists_wait (.inr htimer)
  have hwait : c.port = s.drawn.port := by
    rw [wait_eq (s := s.drawn.fbClear.toPhase .wait) hmain hc]
    rfl
  refine ⟨c.dispatchPhase, exec_seqIter_of_wait hs.main hrender (fun _ => hs.digitsDrawable) hc, ?_, rfl⟩
  rw [c.dispatchPhase_port, hwait, s.drawn_port]

/-- By itself the sequencer boots or iterates, and either completes (rule R312). -/
theorem State.Inv.sequencerGoes_completes {s : State} (hs : s.Inv) :
    ∃ t, sequencerGoes s = .next t ∧ t.port = s.port ∧ t.seqPhase = .render := by
  obtain hboot | ⟨hrender, hen⟩ := hs.phase
  · rw [sequencerGoes_of_boot hboot]
    exact ⟨s.boot, exec_seqBoot_eq hs.main hboot, s.boot_port, rfl⟩
  · rw [sequencerGoes_of_render hrender]
    exact hs.exec_seqIter_completes hrender hen

/-- Settles O58: after the environment's chance to act the invariant still holds, so the sequencer's operation completes, and every
step keeps the invariant. -/
theorem sequencerNeverStops : Obligations.SequencerNeverStops := by
  unfold Obligations.SequencerNeverStops
  intro s hs hport
  have harrive : s.arrive.Inv := hs.of_writesOnly_nil (arrive_writesOnly s)
  obtain ⟨t, hgoes, htport, hphase⟩ := harrive.sequencerGoes_completes
  have hstep : step s = .next t := (step_of_empty_port hport).trans hgoes
  exact ⟨t, hstep, everyStepKeepsTheInvariant s t hs hstep, by rw [htport, s.arrive_port, hport], hphase⟩

end Sys2Proof.Machine
end
